-- ==== Sys2Proof/Word.lean ====
section
/-! DEFINITION. The words of the machine (00_scope.md R8, R10) and the structured instruction view (30_encoding.md R72). -/

namespace Sys2Proof

abbrev Nibble := BitVec 4
abbrev Byte := BitVec 8
abbrev Word := BitVec 16

/-- A 12-bit address field `nnn` (R72). -/
abbrev Addr := BitVec 12

/-- One framebuffer row (10_state.md R29). -/
abbrev Row := BitVec 64

/-- A register index 0..15 (R74); `n`, the row count of DXYN, has the same range. -/
abbrev Reg := Fin 16

/-- `zext_16` of R10. -/
abbrev zext16 {w : Nat} (v : BitVec w) : Word := v.setWidth 16

/-- `trunc_8` of R10, on an exact result. -/
abbrev trunc8 (v : Nat) : Byte := BitVec.ofNat 8 v

/-- `a ++ b` of R10 on two nibbles: a on the high side. -/
def joinNibbles (a b : Nibble) : Byte := a ++ b

/-- `a ++ b` of R10 on two bytes. -/
def joinBytes (a b : Byte) : Word := a ++ b

/-- `a ++ b` of R10 on a nibble and a byte. -/
def joinAddr (a : Nibble) (b : Byte) : Addr := a ++ b

/-- The instruction view of R72. The fields overlap, as the source defines them. -/
structure Fields where
  code : Nibble
  x    : Nibble
  y    : Nibble
  n    : Nibble
  nn   : Byte
  nnn  : Addr
  deriving DecidableEq, Repr

end Sys2Proof
end

