-- ==== Sys2Proof/Config.lean ====
section
/-! DEFINITION. What an implementation fixes: the fixed parameters of 00_scope.md R8, the types of the open
parameters of R9, and the free value of CXNN. The values the open parameters have are data in `State.params`. -/

namespace Sys2Proof.Config

/-- R8 `MEM_SIZE`. -/
def memSize : Nat := 4096

/-- R8 `FONT_BASE` .. : the font occupies 0x000..0x04F, 16 glyphs of 5 bytes. -/
def fontSize : Nat := 80

/-- R8 `PROGRAM_BASE`. -/
def programBase : Word := 0x200#16

/-- The longest program a load accepts, 0x200..0xFFF (70_reset_and_hazards.md R241; log 24). -/
def maxProgram : Nat := 0xE00

/-- R9 `EXEC_HZ`, informational: no definition reads it (R250; log 28). -/
def execHz : Nat := 500

/-- R9 `TIMER_HZ`, informational: no definition reads it (R250; log 28). -/
def timerHz : Nat := 60

/-- `SUB_FLAG_RULE` of 42_alu.md R142 (log 1). -/
inductive SubFlagRule where
  | notBorrow
  | notBorrowStrict
  | borrow
  deriving DecidableEq, Repr

/-- `SHIFT_SOURCE` of 42_alu.md R143 (log 2). -/
inductive ShiftSource where
  | vx
  | vy
  deriving DecidableEq, Repr

/-- `LOADSTORE_INDEX_MODE` of 43_index_memory.md R176 (log 3). -/
inductive IndexMode where
  | unchanged
  | incrementX1
  | incrementX
  deriving DecidableEq, Repr

/-- The open parameters of R9 that an instruction reads. No step changes them. -/
structure Params where
  subFlag     : SubFlagRule
  shiftSource : ShiftSource
  indexMode   : IndexMode
  deriving DecidableEq, Repr

/-- FREE VALUE: the byte the `k`-th draw from the random source gives, when the host has put no byte of its own at the
random port (42_alu.md R155, 60_exceptions.md R227; log 8). It has no body: no proof can see a value of it. -/
opaque freeByte (k : Nat) : Byte

end Sys2Proof.Config
end

