-- ==== Sys2Proof/Machine/Launch.lean ====
section
/-! DEFINITION. The values a constructed machine has where the spec leaves them to a parameter (10_state.md R40;
00_scope.md R9): the default FONT, the byte an unlisted address holds, and the defaults of the open parameters. -/

namespace Sys2Proof.Machine

/-- Glyphs 0 to 7 of the default FONT (10_state.md R33). PRESUMED by the spec itself; log 4. -/
def fontLow : List Byte :=
  [ 0xF0#8, 0x90#8, 0x90#8, 0x90#8, 0xF0#8,  0x20#8, 0x60#8, 0x20#8, 0x20#8, 0x70#8,
    0xF0#8, 0x10#8, 0xF0#8, 0x80#8, 0xF0#8,  0xF0#8, 0x10#8, 0xF0#8, 0x10#8, 0xF0#8,
    0x90#8, 0x90#8, 0xF0#8, 0x10#8, 0x10#8,  0xF0#8, 0x80#8, 0xF0#8, 0x10#8, 0xF0#8,
    0xF0#8, 0x80#8, 0xF0#8, 0x90#8, 0xF0#8,  0xF0#8, 0x10#8, 0x20#8, 0x40#8, 0x40#8 ]

/-- Glyphs 8 to F of the default FONT (10_state.md R33). PRESUMED by the spec itself; log 4. -/
def fontHigh : List Byte :=
  [ 0xF0#8, 0x90#8, 0xF0#8, 0x90#8, 0xF0#8,  0xF0#8, 0x90#8, 0xF0#8, 0x10#8, 0xF0#8,
    0xF0#8, 0x90#8, 0xF0#8, 0x90#8, 0x90#8,  0xE0#8, 0x90#8, 0xE0#8, 0x90#8, 0xE0#8,
    0xF0#8, 0x80#8, 0x80#8, 0x80#8, 0xF0#8,  0xE0#8, 0x90#8, 0x90#8, 0x90#8, 0xE0#8,
    0xF0#8, 0x80#8, 0xF0#8, 0x80#8, 0xF0#8,  0xF0#8, 0x80#8, 0xF0#8, 0x80#8, 0x80#8 ]

/-- The default FONT, 80 bytes from address 0 (R32, R33). -/
def defaultFont : Vector Byte 80 := ⟨(fontLow ++ fontHigh).toArray, rfl⟩

/-- What a byte of memory that nothing has written reads as: the default FONT below 0x050, and 0 elsewhere (DESIGN
CHOICE, unsafe: log 7). -/
def blankByte (a : Nat) : Byte := (fontLow ++ fontHigh).getD a 0#8

/-- The defaults of the open parameters (00_scope.md R9); logs 1, 2, 3. -/
def launchParams : Config.Params where
  subFlag     := .notBorrow
  shiftSource := .vx
  indexMode   := .unchanged

/-- The value of each general register, stack entry, timer, key bit and framebuffer row at construction is 0 (DESIGN
CHOICE, unsafe: log 5). -/
def launchByte : Byte := 0#8

/-- `PC` at construction (DESIGN CHOICE, unsafe: log 6); no step is taken before a load sets it. -/
def launchPC : Word := 0#16

end Sys2Proof.Machine
end

