-- ==== Sys2Proof/Machine/Memory.lean ====
section
/-! DEFINITION. Memory (20_memory.md): 4096 bytes held as a list of (address, byte) pairs in one canonical form. -/

namespace Sys2Proof.Machine

/-- The listed bytes; every other address reads as `blankByte`. -/
abbrev Memory := List Host.Cell

/-- The byte at an address. -/
def Memory.read : Memory → Nat → Byte
  | [], a => blankByte a
  | (k, v) :: rest, a => if a = k then v else Memory.read rest a

/-- Store a byte, keeping the canonical form: a byte that equals what the unlisted address reads as is not listed. -/
def Memory.write : Memory → Nat → Byte → Memory
  | [], a, b => if b = blankByte a then [] else [(a, b)]
  | (k, v) :: rest, a, b =>
    if a < k then (if b = blankByte a then (k, v) :: rest else (a, b) :: (k, v) :: rest)
    else if a = k then (if b = blankByte a then rest else (a, b) :: rest)
    else (k, v) :: Memory.write rest a b

/-- Canonical form from an address up: listed addresses rise strictly, lie below 4096, and no entry equals what the
unlisted address reads as. -/
def Memory.wfFrom : Nat → Memory → Bool
  | _, [] => true
  | lo, (k, v) :: rest =>
    decide (lo ≤ k) && decide (k < Config.memSize) && decide (v ≠ blankByte k) && Memory.wfFrom (k + 1) rest

/-- The canonical form. -/
def Memory.wf (m : Memory) : Bool := Memory.wfFrom 0 m

/-- "address masked to 12 bits" (R51). -/
def maskAddr (a : Word) : Nat := (a &&& 0x0FFF#16).toNat

/-- Store consecutive bytes from a physical address up (program load and construction, R52). -/
def Memory.writeBytes (m : Memory) (a : Nat) : List Byte → Memory
  | [] => m
  | b :: bs => Memory.writeBytes (m.write a b) (a + 1) bs

/-- `MemWrite(I +₁₆ k, 1, f k)` for `k = 0 .. n-1`, in that order (FX33, FX55). -/
def Memory.writeBlock (m : Memory) (base : Word) (f : Nat → Byte) : Nat → Memory
  | 0 => m
  | n + 1 => (Memory.writeBlock m base f n).write (maskAddr (base + BitVec.ofNat 16 n)) (f n)

/-- Some address of the block `I .. I+n-1` lies in the font region 0x000..0x04F after masking (R54). -/
def hitsFont (base : Word) (n : Nat) : Bool :=
  (List.range n).any fun k => decide (maskAddr (base + BitVec.ofNat 16 k) < Config.fontSize)

end Sys2Proof.Machine
end

