-- ==== Sys2Proof/Machine/State.lean ====
section
/-! DEFINITION. The state of the block (10_state.md): the tuple `(mem, V, I, PC, S, SP, DT, ST, K, FB, mode)`, the output
event log (20_memory.md R59), and the model's own fields (parameters, random port, schedule of agents). Plain data. -/

namespace Sys2Proof.Machine

/-- The fatal conditions of 60_exceptions.md R211. -/
inductive FatalCondition where
  | unknownInstruction
  | stackOverflow
  | stackUnderflow
  | invalidProgramCounter
  | fontWrite
  | keyIndexOutOfRange
  deriving DecidableEq, Repr

/-- The engine mode, which is also the status port (10_state.md R35, 60_exceptions.md R223). -/
inductive Mode where
  | unloaded
  | running
  | halted (cause : FatalCondition)
  deriving DecidableEq, Repr

/-- An output event (20_memory.md R59). -/
inductive Event where
  | displayUpdate
  | sound (v : Byte)
  deriving DecidableEq, Repr

/-- One atomic step of one of the four agents (20_memory.md R58; ports of 60_exceptions.md R223). -/
inductive AgentStep where
  | executionTick
  | timerTick
  | pressKey (k : Nat)
  | releaseKey (k : Nat)
  | load (bytes : List Byte)
  deriving DecidableEq, Repr

/-- Why a port turns an agent's request away; no state changes (safe: the spec says so). -/
inductive PortReject where
  /-- `InvalidKey` of 60_exceptions.md R217, R224: a key edge with k outside 0..15. -/
  | invalidKey
  /-- A load of more than 3584 bytes (70_reset_and_hazards.md R241). -/
  | programTooLong
  deriving DecidableEq, Repr

/-- Why the machine stops. -/
inductive Fault where
  /-- Raised by `step` alone, when the engine is `Halted(cause)` and no agent step is left to deliver: "`Halted` is the
  terminal fault state of a run" (70_reset_and_hazards.md R242, R251). Safe: no state changes and no instruction runs.
  Log 10. -/
  | halted (cause : FatalCondition)
  deriving DecidableEq, Repr

/-- Why the model does not accept a step. -/
inductive Refusal where
  /-- An instruction without a meaning yet; no arm of `exec` answers it. Safe. -/
  | notModelled (mnemonic : String)
  /-- Raised by `step` alone, when no program has been loaded and no agent step is left to deliver: "A model refuses a
  run that starts from `Unloaded`" (70_reset_and_hazards.md R242). Safe. Log 10. -/
  | unloaded
  deriving DecidableEq, Repr

/-- The whole state. -/
@[ext]
structure State where
  /-- 10_state.md R31 -/
  mem : Memory
  /-- V0..VF, 10_state.md R20; VF is `V[15]` (R21) -/
  V : Vector Byte 16
  /-- 10_state.md R23 -/
  I : Word
  /-- 10_state.md R24 -/
  PC : Word
  /-- the return stack, 10_state.md R26 -/
  S : Vector Word 16
  /-- the number of stack entries in use, 0..16, 10_state.md R26 -/
  SP : Fin 17
  /-- delay timer, 10_state.md R27 -/
  DT : Byte
  /-- sound timer, 10_state.md R27 -/
  ST : Byte
  /-- key mask, 10_state.md R28 -/
  K : Word
  /-- framebuffer rows, 10_state.md R29 -/
  FB : Vector Row 32
  /-- 10_state.md R35 -/
  mode : Mode
  /-- output event log, oldest first, 20_memory.md R59 -/
  events : List Event
  /-- the open parameters of 00_scope.md R9, fixed for a machine; logs 1, 2, 3 -/
  params : Config.Params
  /-- bytes the host has put at the random port, next first, 60_exceptions.md R227; log 8 -/
  randomFeed : List Byte
  /-- how many bytes have been drawn from the unsubstituted random source; log 8 -/
  draws : Nat
  /-- agent steps still to be delivered, next first, 20_memory.md R58; log 9 -/
  schedule : List AgentStep
  deriving DecidableEq, Repr

/-- The machine right after construction (10_state.md R40, 70_reset_and_hazards.md R240): the font in memory and
`mode = Unloaded`; every other element has the launch value its log entry names (logs 5, 6, 7). -/
def State.reset : State where
  mem := []
  V := Vector.replicate 16 launchByte
  I := zext16 launchByte
  PC := launchPC
  S := Vector.replicate 16 (zext16 launchByte)
  SP := 0
  DT := launchByte
  ST := launchByte
  K := zext16 launchByte
  FB := Vector.replicate 32 (launchByte.setWidth 64)
  mode := .unloaded
  events := []
  params := launchParams
  randomFeed := []
  draws := 0
  schedule := []

end Sys2Proof.Machine
end

