-- ==== Sys2Proof/Machine/Ops.lean ====
section
/-! DEFINITION. The named operations over registers, memory, stack, framebuffer, ports and mode that the meanings share
(00_scope.md R11), and taking a fatal condition (60_exceptions.md R212, R213). -/

namespace Sys2Proof.Machine

/-- What an instruction answers. -/
abbrev Result := Host.Outcome State Fault Refusal

/-- `V[r]` (10_state.md R20). -/
def State.getV (s : State) (r : Reg) : Byte := s.V[r.val]'r.isLt

/-- `V[r] <- b`. -/
def State.setV (s : State) (r : Reg) (b : Byte) : State := { s with V := s.V.set r.val b r.isLt }

/-- `PC <- a`. -/
def State.setPC (s : State) (a : Word) : State := { s with PC := a }

/-- "PC advance": `PC <- PC +₁₆ 2` (00_scope.md R13). -/
def State.advance (s : State) : State := s.setPC (s.PC + 2#16)

/-- `skip(cond): PC <- PC +₁₆ (cond ? 4 : 2)` (41_control_flow.md R123). -/
def State.skip (s : State) (cond : Bool) : State := s.setPC (s.PC + if cond then 4#16 else 2#16)

/-- `I <- a`. -/
def State.setI (s : State) (a : Word) : State := { s with I := a }

/-- `DT <- b`. -/
def State.setDT (s : State) (b : Byte) : State := { s with DT := b }

/-- `ST <- b`. -/
def State.setST (s : State) (b : Byte) : State := { s with ST := b }

/-- `emit e` (20_memory.md R59). -/
def State.emit (s : State) (e : Event) : State := { s with events := s.events ++ [e] }

/-- `MemRead(a, 1)` (20_memory.md R51). -/
def State.memRead (s : State) (a : Word) : Byte := s.mem.read (maskAddr a)

/-- Replace memory. -/
def State.setMem (s : State) (m : Memory) : State := { s with mem := m }

/-- Replace the framebuffer. -/
def State.setFB (s : State) (fb : Vector Row 32) : State := { s with FB := fb }

/-- Push, or nothing when the stack is full: `S[SP] <- v; SP <- SP + 1` (10_state.md R26). -/
def State.push (s : State) (v : Word) : Option State :=
  if h : s.SP.val < 16 then
    some { s with S := s.S.set s.SP.val v h, SP := ⟨s.SP.val + 1, by omega⟩ }
  else none

/-- Pop, or nothing when the stack is empty: `SP <- SP - 1; return S[SP]` (10_state.md R26). -/
def State.pop (s : State) : Option (Word × State) :=
  if h : s.SP.val = 0 then none
  else some (s.S[s.SP.val - 1]'(by omega), { s with SP := ⟨s.SP.val - 1, by omega⟩ })

/-- TAKING A FATAL CONDITION: `mode <- Halted(cause)`, `PC` keeps the address of the instruction, and nothing else
changes (60_exceptions.md R212, R213, R215). There is no vector and no saved state. -/
def raise (cause : FatalCondition) (s : State) : Result := .next { s with mode := .halted cause }

/-- THE WAY BACK: there is no return instruction (60_exceptions.md R216); a program load sets `PC <- 0x200` and
`mode <- Running`, which also clears `Halted(cause)` (70_reset_and_hazards.md R241). -/
def State.enterProgram (s : State) : State := { s with PC := Config.programBase, mode := .running }

/-- `hold`: the execution step has no effect (00_scope.md R11, 44_keys_timers.md R196). -/
def hold (s : State) : Result := .next s

/-- One byte from the random port (42_alu.md R155, 60_exceptions.md R227): the next byte the host has substituted, else
a free byte drawn afresh (log 8). -/
def State.drawByte (s : State) : Byte × State :=
  match s.randomFeed with
  | b :: rest => (b, { s with randomFeed := rest })
  | [] => (Config.freeByte s.draws, { s with draws := s.draws + 1 })

/-- `V[i] <- MemRead(I +₁₆ i, 1)` for `i = 0 .. n-1` (43_index_memory.md R175). -/
def loadBlock (m : Memory) (base : Word) (v : Vector Byte 16) : Nat → Vector Byte 16
  | 0 => v
  | n + 1 => (loadBlock m base v n).setIfInBounds n (m.read (maskAddr (base + BitVec.ofNat 16 n)))

/-- `lowest(K)`: the smallest pressed key, none when `K = 0` (10_state.md R28). -/
def lowestKey (keys : Word) : Option Nat := (List.range 16).find? fun k => keys.getLsbD k

/-- The cause codes of 60_exceptions.md R211. -/
def FatalCondition.code : FatalCondition → Nat
  | .unknownInstruction => 1
  | .stackOverflow => 2
  | .stackUnderflow => 3
  | .invalidProgramCounter => 4
  | .fontWrite => 5
  | .keyIndexOutOfRange => 6

end Sys2Proof.Machine
end

