-- ==== Sys2Proof/Machine/Agents.lean ====
section
/-! DEFINITION. The agents beside the execution engine, and the ports: timer countdown (60_exceptions.md R220), key edges
(R224), program load and construction (70_reset_and_hazards.md R240, R241), display, sound and status (R223 to R226). -/

namespace Sys2Proof.Machine

/-- "decremented by 1, floored at 0" (60_exceptions.md R220). -/
def countDown (t : Byte) : Byte := if t.toNat > 0 then t - 1#8 else 0#8

/-- A timer tick: both timers, nothing else; defined in every mode (R220, R221; log 9). -/
def State.timerTick (s : State) : State := { s with DT := countDown s.DT, ST := countDown s.ST }

/-- `pressKey(k)` (R224). -/
def State.pressKey (s : State) (k : Nat) : Except PortReject State :=
  if k > 15 then .error .invalidKey else .ok { s with K := s.K ||| (1#16 <<< k) }

/-- `releaseKey(k)` (R224). -/
def State.releaseKey (s : State) (k : Nat) : Except PortReject State :=
  if k > 15 then .error .invalidKey else .ok { s with K := s.K &&& ~~~(1#16 <<< k) }

/-- `load(bytes)`: copy the bytes to 0x200.., set `PC` and `mode`, answer the byte count; registers, stack, timers and
framebuffer are not cleared (70_reset_and_hazards.md R241; log 24). -/
def State.load (s : State) (bytes : List Byte) : Except PortReject (Nat × State) :=
  if bytes.length > Config.maxProgram then .error .programTooLong
  else .ok (bytes.length, (s.setMem (s.mem.writeBytes Config.programBase.toNat bytes)).enterProgram)

/-- What a port answers to an agent's step that it accepts or turns away: a rejected request changes nothing (R217; log
27). The execution tick is the engine's and is not delivered here. -/
def State.port (s : State) : AgentStep → Except PortReject State
  | .executionTick => .ok s
  | .timerTick => .ok s.timerTick
  | .pressKey k => s.pressKey k
  | .releaseKey k => s.releaseKey k
  | .load bytes => (s.load bytes).map Prod.snd

/-- `LaunchState` of 10_state.md R40: the value of every element that construction does not set. -/
structure LaunchState where
  mem : Memory
  V   : Vector Byte 16
  I   : Word
  PC  : Word
  S   : Vector Word 16
  SP  : Fin 17
  DT  : Byte
  ST  : Byte
  K   : Word
  FB  : Vector Row 32
  deriving DecidableEq, Repr

/-- Construction (70_reset_and_hazards.md R240): write `FONT` to 0x000..0x04F, `mode <- Unloaded`, every other element
from `LaunchState`; the open parameters are arguments. -/
def construct (p : Config.Params) (font : Vector Byte 80) (l : LaunchState) : State where
  mem := l.mem.writeBytes 0 font.toList
  V := l.V
  I := l.I
  PC := l.PC
  S := l.S
  SP := l.SP
  DT := l.DT
  ST := l.ST
  K := l.K
  FB := l.FB
  mode := .unloaded
  events := []
  params := p
  randomFeed := []
  draws := 0
  schedule := []

/-- The launch values of logs 5, 6 and 7 (`CleanEntry` of 10_state.md R40, and PC). -/
def cleanLaunch : LaunchState where
  mem := []
  V := Vector.replicate 16 launchByte
  I := zext16 launchByte
  PC := launchPC
  S := Vector.replicate 16 (zext16 launchByte)
  SP := 0
  DT := launchByte
  ST := launchByte
  K := zext16 launchByte
  FB := Vector.replicate 32 (launchByte.setWidth 64)

/-- `pix(r, c)`: column c of row r is bit 63 - c of the row word (10_state.md R29; log 21). The display port reads it. -/
def pixel (fb : Vector Row 32) (r : Fin 32) (c : Fin 64) : Bool := (fb[r.val]'r.isLt).getLsbD (63 - c.val)

/-- The sound port's level `sound_on = (ST ≠ 0)` (60_exceptions.md R226). -/
def State.soundOn (s : State) : Bool := s.ST != 0#8

end Sys2Proof.Machine
end

