-- ==== Sys2Proof/Machine/Operands.lean ====
section
/-! DEFINITION. Operand forms (30_encoding.md R74) and the operands that a parameter or a coordinate rule selects. -/

namespace Sys2Proof.Machine

/-- The value 8XY6 and 8XYE shift: `(SHIFT_SOURCE = VX) ? V[x] : V[y]` (42_alu.md R143; log 2). -/
def State.shiftOperand (s : State) (x y : Reg) : Byte :=
  match s.params.shiftSource with
  | .vx => s.getV x
  | .vy => s.getV y

/-- `index_update(x)` of 43_index_memory.md R176: `I` after FX55 and FX65 (log 3). -/
def State.indexAfterBlock (s : State) (x : Reg) : Word :=
  match s.params.indexMode with
  | .unchanged => s.I
  | .incrementX1 => s.I + BitVec.ofNat 16 (x.val + 1)
  | .incrementX => s.I + BitVec.ofNat 16 x.val

/-- `xo = V[x] & 63` (40_display_sprite.md R101). -/
def State.originX (s : State) (x : Reg) : Nat := (s.getV x &&& 63#8).toNat

/-- `yo = V[y] & 31` (40_display_sprite.md R101). -/
def State.originY (s : State) (y : Reg) : Nat := (s.getV y &&& 31#8).toNat

/-- `zext_16(5 × (V[x] & 0xF))`: the glyph address of FX29 (43_index_memory.md R172). -/
def glyphAddr (b : Byte) : Word := 5#16 * zext16 (b &&& 0xF#8)

/-- The three decimal digits of FX33: hundreds, tens, ones (43_index_memory.md R173). -/
def bcdDigit (v : Byte) (k : Nat) : Byte :=
  match k with
  | 0 => trunc8 (v.toNat / 100)
  | 1 => trunc8 (v.toNat / 10 % 10)
  | _ => trunc8 (v.toNat % 10)

/-- `V[k]` by number, for the block store of FX55. -/
def State.regNo (s : State) (k : Nat) : Byte := s.V.getD k 0#8

end Sys2Proof.Machine
end

