-- ==== Sys2Proof/Machine/Flags.lean ====
section
/-! DEFINITION. Flag computations (42_alu.md R140 to R143, R150 to R154; 40_display_sprite.md R103). VF is the only flag. -/

namespace Sys2Proof.Machine

/-- "written into VF as an 8-bit value (0 or 1)" (R141). -/
def flagByte (b : Bool) : Byte := if b then 1#8 else 0#8

/-- `V[15] <- flag`. -/
def State.setVF (s : State) (b : Bool) : State := s.setV 15 (flagByte b)

/-- The carry of 8XY4, on the exact sum of the two bytes (R140, R150). -/
def carryOut (a b : Byte) : Bool := decide (a.toNat + b.toNat > 255)

/-- `subflag(a, b)` of R142 (log 1). -/
def subFlag (rule : Config.SubFlagRule) (a b : Byte) : Bool :=
  match rule with
  | .notBorrow => decide (a.toNat ≥ b.toNat)
  | .notBorrowStrict => decide (a.toNat > b.toNat)
  | .borrow => decide (a.toNat < b.toNat)

/-- The bit 8XY6 shifts out: `v[0]` (R152). -/
def lowBitOut (v : Byte) : Bool := v.getLsbD 0

/-- The bit 8XYE shifts out: `v[7]` (R154). -/
def highBitOut (v : Byte) : Bool := v.getLsbD 7

/-- The end of every flag-writing instruction of the 8XYn family: "the result is written to V[x] first and the flag to VF
last" (R141; log 14), then the PC advance. -/
def State.writeFlagged (s : State) (x : Reg) (result : Byte) (flag : Bool) : State :=
  ((s.setV x result).setVF flag).advance

/-- The end of every instruction that writes one register and no flag. -/
def State.writeReg (s : State) (x : Reg) (result : Byte) : State := (s.setV x result).advance

/-- `mask(b, xo) = rotr64(zext_64(b) << 56, xo)` (40_display_sprite.md R102; log 21). -/
def rowMask (b : Byte) (xo : Nat) : Row := (b.setWidth 64 <<< 56).rotateRight xo

/-- One sprite row: collision test on the row before the XOR, then the XOR (R103, R104). -/
def drawRow (b : Byte) (xo r : Nat) (acc : Vector Row 32 × Bool) : Vector Row 32 × Bool :=
  let old := acc.1.getD r 0#64
  let mask := rowMask b xo
  (acc.1.setIfInBounds r (old ^^^ mask), acc.2 || decide (old &&& mask ≠ 0#64))

/-- Rows `0 .. n-1` of a sprite, in that order: row `k` is the byte at `I +₁₆ k` and lands on framebuffer row
`(yo + k) mod 32` (R102 to R105). -/
def drawRows (m : Memory) (base : Word) (xo yo : Nat) (fb : Vector Row 32) : Nat → Vector Row 32 × Bool
  | 0 => (fb, false)
  | n + 1 =>
    drawRow (m.read (maskAddr (base + BitVec.ofNat 16 n))) xo ((yo + n) % 32) (drawRows m base xo yo fb n)

end Sys2Proof.Machine
end

