-- ==== Sys2Proof/Machine/Alu.lean ====
section
/-! DEFINITION. 8-bit arithmetic and flag compute (42_alu.md): 6XNN, 7XNN, 8XY0 to 8XY7, 8XYE, CXNN. Operands are read
from the state before the step (R141). -/

namespace Sys2Proof.Machine

/-- 6XNN: `V[x] <- nn` (R144). -/
def execLdByte (x : Reg) (nn : Byte) (s : State) : Result := .next (s.writeReg x nn)

/-- 7XNN: `V[x] <- V[x] +₈ nn`, no flag (R145). -/
def execAddByte (x : Reg) (nn : Byte) (s : State) : Result := .next (s.writeReg x (s.getV x + nn))

/-- 8XY0: `V[x] <- V[y]` (R146). -/
def execLdReg (x y : Reg) (s : State) : Result := .next (s.writeReg x (s.getV y))

/-- 8XY1: OR, VF not written (R147; log 15). -/
def execOrReg (x y : Reg) (s : State) : Result := .next (s.writeReg x (s.getV x ||| s.getV y))

/-- 8XY2: AND, VF not written (R148; log 15). -/
def execAndReg (x y : Reg) (s : State) : Result := .next (s.writeReg x (s.getV x &&& s.getV y))

/-- 8XY3: XOR, VF not written (R149; log 15). -/
def execXorReg (x y : Reg) (s : State) : Result := .next (s.writeReg x (s.getV x ^^^ s.getV y))

/-- 8XY4: add with carry out (R150). -/
def execAddReg (x y : Reg) (s : State) : Result :=
  .next (s.writeFlagged x (trunc8 ((s.getV x).toNat + (s.getV y).toNat)) (carryOut (s.getV x) (s.getV y)))

/-- 8XY5: `V[x] <- V[x] -₈ V[y]`, `V[15] <- subflag(V[x], V[y])` (R151). -/
def execSub (x y : Reg) (s : State) : Result :=
  .next (s.writeFlagged x (s.getV x - s.getV y) (subFlag s.params.subFlag (s.getV x) (s.getV y)))

/-- 8XY6: shift right one bit, capture bit 0 (R152). -/
def execShr (x y : Reg) (s : State) : Result :=
  .next (s.writeFlagged x (s.shiftOperand x y >>> 1) (lowBitOut (s.shiftOperand x y)))

/-- 8XY7: `V[x] <- V[y] -₈ V[x]`, `V[15] <- subflag(V[y], V[x])` (R153). -/
def execSubn (x y : Reg) (s : State) : Result :=
  .next (s.writeFlagged x (s.getV y - s.getV x) (subFlag s.params.subFlag (s.getV y) (s.getV x)))

/-- 8XYE: shift left one bit, capture bit 7 (R154). -/
def execShl (x y : Reg) (s : State) : Result :=
  .next (s.writeFlagged x (s.shiftOperand x y <<< 1) (highBitOut (s.shiftOperand x y)))

/-- CXNN: `V[x] <- r & nn` for a byte `r` drawn for this step (R155; log 8). -/
def execRnd (x : Reg) (nn : Byte) (s : State) : Result :=
  let d := s.drawByte
  .next (d.2.writeReg x (d.1 &&& nn))

end Sys2Proof.Machine
end

