-- ==== Sys2Proof/Machine/Control.lean ====
section
/-! DEFINITION. Control flow (41_control_flow.md): 00EE, 1NNN, 2NNN, 3XNN, 4XNN, 5XY0, 9XY0, BNNN. -/

namespace Sys2Proof.Machine

/-- 00EE: return; `PC <- S[SP] +₁₆ 2` after the pop, `StackUnderflow` when SP = 0 (R120). -/
def execRet (s : State) : Result :=
  match s.pop with
  | none => raise .stackUnderflow s
  | some (a, s') => .next (s'.setPC (a + 2#16))

/-- 1NNN: jump (R121). -/
def execJp (nnn : Addr) (s : State) : Result := .next (s.setPC (zext16 nnn))

/-- 2NNN: call; the pushed value is the address of this instruction, `StackOverflow` when SP = 16 (R122). -/
def execCall (nnn : Addr) (s : State) : Result :=
  match s.push s.PC with
  | none => raise .stackOverflow s
  | some s' => .next (s'.setPC (zext16 nnn))

/-- 3XNN: skip if `V[x] = nn` (R124). -/
def execSeByte (x : Reg) (nn : Byte) (s : State) : Result := .next (s.skip (s.getV x == nn))

/-- 4XNN: skip if `V[x] ≠ nn` (R125). -/
def execSneByte (x : Reg) (nn : Byte) (s : State) : Result := .next (s.skip (s.getV x != nn))

/-- 5XY0: skip if `V[x] = V[y]` (R126). -/
def execSeReg (x y : Reg) (s : State) : Result := .next (s.skip (s.getV x == s.getV y))

/-- 9XY0: skip if `V[x] ≠ V[y]` (R127). -/
def execSneReg (x y : Reg) (s : State) : Result := .next (s.skip (s.getV x != s.getV y))

/-- BNNN: `PC <- zext_16(nnn) +₁₆ zext_16(V[0])`, not masked (R128; log 26). -/
def execJpV0 (nnn : Addr) (s : State) : Result := .next (s.setPC (zext16 nnn + zext16 (s.getV 0)))

end Sys2Proof.Machine
end

