-- ==== Sys2Proof/Machine/Display.lean ====
section
/-! DEFINITION. Display and sprite/collision engine (40_display_sprite.md): 00E0, DXYN. -/

namespace Sys2Proof.Machine

/-- 00E0: clear the framebuffer (R100). -/
def execCls (s : State) : Result :=
  .next (((s.setFB (Vector.replicate 32 0#64)).emit .displayUpdate).advance)

/-- DXYN: draw an n-row sprite from memory at I at (Vx, Vy), VF = collision, written after the rows (R101 to R105). -/
def execDrw (x y : Reg) (n : Fin 16) (s : State) : Result :=
  let d := drawRows s.mem s.I (s.originX x) (s.originY y) s.FB n.val
  .next ((((s.setFB d.1).setVF d.2).emit .displayUpdate).advance)

end Sys2Proof.Machine
end

