-- ==== Sys2Proof/Machine/IndexMemory.lean ====
section
/-! DEFINITION. Index register and memory transfers (43_index_memory.md): ANNN, FX1E, FX29, FX33, FX55, FX65. -/

namespace Sys2Proof.Machine

/-- ANNN: `I <- zext_16(nnn)` (R170). -/
def execLdI (nnn : Addr) (s : State) : Result := .next ((s.setI (zext16 nnn)).advance)

/-- FX1E: `I <- I +₁₆ zext_16(V[x])`, no flag (R171). -/
def execAddI (x : Reg) (s : State) : Result := .next ((s.setI (s.I + zext16 (s.getV x))).advance)

/-- FX29: `I <- 5 × (V[x] & 0xF)` (R172). -/
def execLdF (x : Reg) (s : State) : Result := .next ((s.setI (glyphAddr (s.getV x))).advance)

/-- FX33: the three BCD digits at I, I+1, I+2; `FontWrite` before any byte is written (R173, 20_memory.md R54). -/
def execLdB (x : Reg) (s : State) : Result :=
  if hitsFont s.I 3 then raise .fontWrite s
  else .next ((s.setMem (s.mem.writeBlock s.I (bcdDigit (s.getV x)) 3)).advance)

/-- FX55: V0..Vx to memory at I, then `index_update(x)`; `FontWrite` before any byte is written (R174, R176). -/
def execStoreRegs (x : Reg) (s : State) : Result :=
  if hitsFont s.I (x.val + 1) then raise .fontWrite s
  else .next (((s.setMem (s.mem.writeBlock s.I s.regNo (x.val + 1))).setI (s.indexAfterBlock x)).advance)

/-- FX65: V0..Vx from memory at I, then `index_update(x)` (R175, R176). -/
def execLoadRegs (x : Reg) (s : State) : Result :=
  .next ((({ s with V := loadBlock s.mem s.I s.V (x.val + 1) } : State).setI (s.indexAfterBlock x)).advance)

end Sys2Proof.Machine
end

