-- ==== Sys2Proof/Machine/KeysTimers.lean ====
section
/-! DEFINITION. Key and timer instructions (44_keys_timers.md): EX9E, EXA1, FX07, FX0A, FX15, FX18. -/

namespace Sys2Proof.Machine

/-- EX9E: skip if key `V[x]` is pressed; `KeyIndexOutOfRange` when `V[x] > 15` (R190, R191). -/
def execSkp (x : Reg) (s : State) : Result :=
  if (s.getV x).toNat > 15 then raise .keyIndexOutOfRange s
  else .next (s.skip (s.K.getLsbD (s.getV x).toNat))

/-- EXA1: skip if key `V[x]` is not pressed; `KeyIndexOutOfRange` when `V[x] > 15` (R190, R192). -/
def execSknp (x : Reg) (s : State) : Result :=
  if (s.getV x).toNat > 15 then raise .keyIndexOutOfRange s
  else .next (s.skip (!s.K.getLsbD (s.getV x).toNat))

/-- FX07: `V[x] <- DT` (R193). -/
def execLdVxDt (x : Reg) (s : State) : Result := .next (s.writeReg x s.DT)

/-- FX0A: hold while `K = 0`, else `V[x] <- lowest(K)` (R196; log 23). -/
def execLdVxK (x : Reg) (s : State) : Result :=
  match lowestKey s.K with
  | none => hold s
  | some k => .next (s.writeReg x (trunc8 k))

/-- FX15: `DT <- V[x]` (R194). -/
def execLdDtVx (x : Reg) (s : State) : Result := .next ((s.setDT (s.getV x)).advance)

/-- FX18: `ST <- V[x]`, `emit Sound(V[x])` (R195). -/
def execLdStVx (x : Reg) (s : State) : Result :=
  .next (((s.setST (s.getV x)).emit (.sound (s.getV x))).advance)

end Sys2Proof.Machine
end

