-- ==== Sys2Proof/Syntax.lean ====
section
/-! DEFINITION. The instruction set: one constructor per row of opcode_table.json (30_encoding.md R75). Operand widths
are those of R74, held by the types. -/

namespace Sys2Proof

/-- One constructor per row of the opcode table, named after the mnemonics of R84. -/
inductive Instr where
  /-- 00E0 `CLS` -/
  | cls
  /-- 00EE `RET` -/
  | ret
  /-- 1NNN `JP nnn` -/
  | jp (nnn : Addr)
  /-- 2NNN `CALL nnn` -/
  | call (nnn : Addr)
  /-- 3XNN `SE Vx, nn` -/
  | seByte (x : Reg) (nn : Byte)
  /-- 4XNN `SNE Vx, nn` -/
  | sneByte (x : Reg) (nn : Byte)
  /-- 5XY0 `SE Vx, Vy` -/
  | seReg (x y : Reg)
  /-- 6XNN `LD Vx, nn` -/
  | ldByte (x : Reg) (nn : Byte)
  /-- 7XNN `ADD Vx, nn` -/
  | addByte (x : Reg) (nn : Byte)
  /-- 8XY0 `LD Vx, Vy` -/
  | ldReg (x y : Reg)
  /-- 8XY1 `OR Vx, Vy` -/
  | orReg (x y : Reg)
  /-- 8XY2 `AND Vx, Vy` -/
  | andReg (x y : Reg)
  /-- 8XY3 `XOR Vx, Vy` -/
  | xorReg (x y : Reg)
  /-- 8XY4 `ADD Vx, Vy` -/
  | addReg (x y : Reg)
  /-- 8XY5 `SUB Vx, Vy` -/
  | sub (x y : Reg)
  /-- 8XY6 `SHR Vx, Vy` -/
  | shr (x y : Reg)
  /-- 8XY7 `SUBN Vx, Vy` -/
  | subn (x y : Reg)
  /-- 8XYE `SHL Vx, Vy` -/
  | shl (x y : Reg)
  /-- 9XY0 `SNE Vx, Vy` -/
  | sneReg (x y : Reg)
  /-- ANNN `LD I, nnn` -/
  | ldI (nnn : Addr)
  /-- BNNN `JP V0, nnn` -/
  | jpV0 (nnn : Addr)
  /-- CXNN `RND Vx, nn` -/
  | rnd (x : Reg) (nn : Byte)
  /-- DXYN `DRW Vx, Vy, n` -/
  | drw (x y : Reg) (n : Fin 16)
  /-- EX9E `SKP Vx` -/
  | skp (x : Reg)
  /-- EXA1 `SKNP Vx` -/
  | sknp (x : Reg)
  /-- FX07 `LD Vx, DT` -/
  | ldVxDt (x : Reg)
  /-- FX0A `LD Vx, K` -/
  | ldVxK (x : Reg)
  /-- FX15 `LD DT, Vx` -/
  | ldDtVx (x : Reg)
  /-- FX18 `LD ST, Vx` -/
  | ldStVx (x : Reg)
  /-- FX1E `ADD I, Vx` -/
  | addI (x : Reg)
  /-- FX29 `LD F, Vx` -/
  | ldF (x : Reg)
  /-- FX33 `LD B, Vx` -/
  | ldB (x : Reg)
  /-- FX55 `LD [I], Vx` -/
  | storeRegs (x : Reg)
  /-- FX65 `LD Vx, [I]` -/
  | loadRegs (x : Reg)
  deriving DecidableEq, Repr

end Sys2Proof
end

