-- ==== Sys2Proof/WellFormed.lean ====
section
/-! DEFINITION. Well-formedness. The operand ranges of 30_encoding.md R74 and R84 are held by the types of `Instr`
(`Reg` is 0..15, `nn` a byte, `nnn` twelve bits, `n` 0..15), so every term of `Instr` is an instruction the encoding
admits and `Instr.wellFormed` has nothing left to refuse (`Laws/Decode.lean` proves it). What can be ill-formed is an
instruction view: its fields overlap (R72), and a view whose overlapping fields disagree comes from no word. -/

namespace Sys2Proof

/-- "`nnn = x ++ nn`" (R72). -/
def Fields.nnnAgrees (f : Fields) : Bool := f.nnn == joinAddr f.x f.nn

/-- "`nn = y ++ n`" (R72). -/
def Fields.nnAgrees (f : Fields) : Bool := f.nn == joinNibbles f.y f.n

/-- The view is one that a word has. -/
def Fields.wellFormed (f : Fields) : Bool := f.nnnAgrees && f.nnAgrees

/-- The operand values R84 admits for `Vx`, `Vy`, `nn`, `nnn` and `n`, instruction by instruction. -/
def Instr.wellFormed : Instr → Bool
  | .cls | .ret => true
  | .jp a | .call a | .ldI a | .jpV0 a => decide (a.toNat ≤ 0xFFF)
  | .seByte x b | .sneByte x b | .ldByte x b | .addByte x b | .rnd x b => decide (x.val < 16) && decide (b.toNat ≤ 255)
  | .seReg x y | .sneReg x y | .ldReg x y | .orReg x y | .andReg x y | .xorReg x y | .addReg x y | .sub x y
  | .shr x y | .subn x y | .shl x y => decide (x.val < 16) && decide (y.val < 16)
  | .drw x y n => decide (x.val < 16) && decide (y.val < 16) && decide (n.val ≤ 15)
  | .skp x | .sknp x | .ldVxDt x | .ldVxK x | .ldDtVx x | .ldStVx x | .addI x | .ldF x | .ldB x | .storeRegs x
  | .loadRegs x => decide (x.val < 16)

end Sys2Proof
end

