-- ==== Sys2Proof/Decode.lean ====
section
/-! DEFINITION. The decoder (30_encoding.md R70 to R83), total on any bytes and rejecting by name; then the encoder and
the opcode table as data (R75, opcode_table.json). -/

namespace Sys2Proof

/-- Why bytes are no instruction. -/
inductive DecodeReject where
  /-- The word is one of those without semantics (R81, R82). -/
  | unknownInstruction
  /-- Fewer than the two bytes a decoder always consumes (R70). -/
  | truncated
  deriving DecidableEq, Repr

/-- `b[7:4]`. -/
def hiNib (b : Byte) : Nibble := b.extractLsb' 4 4

/-- `b[3:0]`. -/
def loNib (b : Byte) : Nibble := b.extractLsb' 0 4

/-- `w[15:8]`. -/
def hiByte (w : Word) : Byte := w.extractLsb' 8 8

/-- `w[7:0]`. -/
def loByte (w : Word) : Byte := w.extractLsb' 0 8

/-- The pure, total decoder of R72: the view of two bytes. -/
def decodeFields (hi lo : Byte) : Fields where
  code := hiNib hi
  x    := loNib hi
  y    := hiNib lo
  n    := loNib lo
  nn   := lo
  nnn  := joinAddr (loNib hi) lo

/-- A register number or row count from its 4-bit field. -/
def nibReg (v : Nibble) : Reg := ⟨v.toNat, v.isLt⟩

/-- Family 0 selects on the whole word (R76). -/
def classify0 (f : Fields) : Except DecodeReject Instr :=
  if f.nnn = 0x0E0#12 then .ok .cls
  else if f.nnn = 0x0EE#12 then .ok .ret
  else .error .unknownInstruction

/-- Family 8 selects on `n` (R78). -/
def classify8 (x y : Reg) (n : Nibble) : Except DecodeReject Instr :=
  match n with
  | 0x0#4 => .ok (.ldReg x y)
  | 0x1#4 => .ok (.orReg x y)
  | 0x2#4 => .ok (.andReg x y)
  | 0x3#4 => .ok (.xorReg x y)
  | 0x4#4 => .ok (.addReg x y)
  | 0x5#4 => .ok (.sub x y)
  | 0x6#4 => .ok (.shr x y)
  | 0x7#4 => .ok (.subn x y)
  | 0xE#4 => .ok (.shl x y)
  | _ => .error .unknownInstruction

/-- Family E selects on `nn` (R79). -/
def classifyE (x : Reg) (nn : Byte) : Except DecodeReject Instr :=
  match nn with
  | 0x9E#8 => .ok (.skp x)
  | 0xA1#8 => .ok (.sknp x)
  | _ => .error .unknownInstruction

/-- Family F selects on `nn` (R79). -/
def classifyF (x : Reg) (nn : Byte) : Except DecodeReject Instr :=
  match nn with
  | 0x07#8 => .ok (.ldVxDt x)
  | 0x0A#8 => .ok (.ldVxK x)
  | 0x15#8 => .ok (.ldDtVx x)
  | 0x18#8 => .ok (.ldStVx x)
  | 0x1E#8 => .ok (.addI x)
  | 0x29#8 => .ok (.ldF x)
  | 0x33#8 => .ok (.ldB x)
  | 0x55#8 => .ok (.storeRegs x)
  | 0x65#8 => .ok (.loadRegs x)
  | _ => .error .unknownInstruction

/-- Dispatch by code, then by `n` or `nn` where the family has sub-opcodes (R75 to R80). -/
def classify (f : Fields) : Except DecodeReject Instr :=
  let x := nibReg f.x
  let y := nibReg f.y
  match f.code with
  | 0x0#4 => classify0 f
  | 0x1#4 => .ok (.jp f.nnn)
  | 0x2#4 => .ok (.call f.nnn)
  | 0x3#4 => .ok (.seByte x f.nn)
  | 0x4#4 => .ok (.sneByte x f.nn)
  | 0x5#4 => if f.n = 0#4 then .ok (.seReg x y) else .error .unknownInstruction
  | 0x6#4 => .ok (.ldByte x f.nn)
  | 0x7#4 => .ok (.addByte x f.nn)
  | 0x8#4 => classify8 x y f.n
  | 0x9#4 => if f.n = 0#4 then .ok (.sneReg x y) else .error .unknownInstruction
  | 0xA#4 => .ok (.ldI f.nnn)
  | 0xB#4 => .ok (.jpV0 f.nnn)
  | 0xC#4 => .ok (.rnd x f.nn)
  | 0xD#4 => .ok (.drw x y (nibReg f.n))
  | 0xE#4 => classifyE x f.nn
  | 0xF#4 => classifyF x f.nn
  | _ => .error .unknownInstruction

/-- Decode the instruction at the front of a byte stream; two bytes, high byte first (R70, R71). -/
def decode : List Byte → Except DecodeReject (Instr × List Byte)
  | hi :: lo :: rest =>
    match classify (decodeFields hi lo) with
    | .ok i => .ok (i, rest)
    | .error e => .error e
  | _ => .error .truncated

/-- The two bytes of a word as the hardware stores them, the high byte at the lower address (R53, R55). -/
def wordBytes (w : Word) : List Byte := [hiByte w, loByte w]

/-- The instruction whose word is `w`, if it has one. -/
def decodeWord (w : Word) : Option Instr :=
  match decode (wordBytes w) with
  | .ok (i, _) => some i
  | .error _ => none

/-- The 16-bit word of which the low `nbits` bits are given and the others are 0. -/
def tableWord (nbits w : Nat) : Word := BitVec.ofNat 16 (w % 2 ^ nbits)

/-- The decoder on an opcode-table word of `nbits` bits, bit 0 the least significant. -/
def decodeTableWord (nbits w : Nat) : Option Instr := decodeWord (tableWord nbits w)

/-- The 4-bit field of a register number or row count. -/
def regNib (r : Reg) : Nibble := BitVec.ofNat 4 r.val

/-- An `XNN` word. -/
def wordXNN (code : Nibble) (x : Reg) (nn : Byte) : Word := joinBytes (joinNibbles code (regNib x)) nn

/-- An `XYn` word. -/
def wordXYN (code : Nibble) (x y : Reg) (n : Nibble) : Word :=
  joinBytes (joinNibbles code (regNib x)) (joinNibbles (regNib y) n)

/-- An `NNN` word. -/
def wordNNN (code : Nibble) (nnn : Addr) : Word :=
  joinBytes (joinNibbles code (nnn.extractLsb' 8 4)) (nnn.extractLsb' 0 8)

/-- The word of an instruction, from the patterns of R75 and R84. -/
def encode : Instr → Word
  | .cls => 0x00E0#16
  | .ret => 0x00EE#16
  | .jp a => wordNNN 0x1#4 a
  | .call a => wordNNN 0x2#4 a
  | .seByte x b => wordXNN 0x3#4 x b
  | .sneByte x b => wordXNN 0x4#4 x b
  | .seReg x y => wordXYN 0x5#4 x y 0x0#4
  | .ldByte x b => wordXNN 0x6#4 x b
  | .addByte x b => wordXNN 0x7#4 x b
  | .ldReg x y => wordXYN 0x8#4 x y 0x0#4
  | .orReg x y => wordXYN 0x8#4 x y 0x1#4
  | .andReg x y => wordXYN 0x8#4 x y 0x2#4
  | .xorReg x y => wordXYN 0x8#4 x y 0x3#4
  | .addReg x y => wordXYN 0x8#4 x y 0x4#4
  | .sub x y => wordXYN 0x8#4 x y 0x5#4
  | .shr x y => wordXYN 0x8#4 x y 0x6#4
  | .subn x y => wordXYN 0x8#4 x y 0x7#4
  | .shl x y => wordXYN 0x8#4 x y 0xE#4
  | .sneReg x y => wordXYN 0x9#4 x y 0x0#4
  | .ldI a => wordNNN 0xA#4 a
  | .jpV0 a => wordNNN 0xB#4 a
  | .rnd x b => wordXNN 0xC#4 x b
  | .drw x y n => wordXYN 0xD#4 x y (regNib n)
  | .skp x => wordXNN 0xE#4 x 0x9E#8
  | .sknp x => wordXNN 0xE#4 x 0xA1#8
  | .ldVxDt x => wordXNN 0xF#4 x 0x07#8
  | .ldVxK x => wordXNN 0xF#4 x 0x0A#8
  | .ldDtVx x => wordXNN 0xF#4 x 0x15#8
  | .ldStVx x => wordXNN 0xF#4 x 0x18#8
  | .addI x => wordXNN 0xF#4 x 0x1E#8
  | .ldF x => wordXNN 0xF#4 x 0x29#8
  | .ldB x => wordXNN 0xF#4 x 0x33#8
  | .storeRegs x => wordXNN 0xF#4 x 0x55#8
  | .loadRegs x => wordXNN 0xF#4 x 0x65#8

/-- The bytes of an instruction as they stand in memory. -/
def encodeBytes (i : Instr) : List Byte := wordBytes (encode i)

/-- One row of opcode_table.json: "a word `w` is that instruction iff `(w & mask) = match`" (R75). -/
structure TableRow where
  mnemonic : String
  pattern  : Word
  mask     : Word
  deriving DecidableEq, Repr

/-- The opcode table, families 0 to 7. -/
def opcodeTableLow : List TableRow :=
  [ ⟨"00E0", 0x00E0#16, 0xFFFF#16⟩, ⟨"00EE", 0x00EE#16, 0xFFFF#16⟩, ⟨"1NNN", 0x1000#16, 0xF000#16⟩,
    ⟨"2NNN", 0x2000#16, 0xF000#16⟩, ⟨"3XNN", 0x3000#16, 0xF000#16⟩, ⟨"4XNN", 0x4000#16, 0xF000#16⟩,
    ⟨"5XY0", 0x5000#16, 0xF00F#16⟩, ⟨"6XNN", 0x6000#16, 0xF000#16⟩, ⟨"7XNN", 0x7000#16, 0xF000#16⟩ ]

/-- The opcode table, family 8. -/
def opcodeTable8 : List TableRow :=
  [ ⟨"8XY0", 0x8000#16, 0xF00F#16⟩, ⟨"8XY1", 0x8001#16, 0xF00F#16⟩, ⟨"8XY2", 0x8002#16, 0xF00F#16⟩,
    ⟨"8XY3", 0x8003#16, 0xF00F#16⟩, ⟨"8XY4", 0x8004#16, 0xF00F#16⟩, ⟨"8XY5", 0x8005#16, 0xF00F#16⟩,
    ⟨"8XY6", 0x8006#16, 0xF00F#16⟩, ⟨"8XY7", 0x8007#16, 0xF00F#16⟩, ⟨"8XYE", 0x800E#16, 0xF00F#16⟩ ]

/-- The opcode table, families 9 to F. -/
def opcodeTableHigh : List TableRow :=
  [ ⟨"9XY0", 0x9000#16, 0xF00F#16⟩, ⟨"ANNN", 0xA000#16, 0xF000#16⟩, ⟨"BNNN", 0xB000#16, 0xF000#16⟩,
    ⟨"CXNN", 0xC000#16, 0xF000#16⟩, ⟨"DXYN", 0xD000#16, 0xF000#16⟩, ⟨"EX9E", 0xE09E#16, 0xF0FF#16⟩,
    ⟨"EXA1", 0xE0A1#16, 0xF0FF#16⟩, ⟨"FX07", 0xF007#16, 0xF0FF#16⟩, ⟨"FX0A", 0xF00A#16, 0xF0FF#16⟩,
    ⟨"FX15", 0xF015#16, 0xF0FF#16⟩, ⟨"FX18", 0xF018#16, 0xF0FF#16⟩, ⟨"FX1E", 0xF01E#16, 0xF0FF#16⟩,
    ⟨"FX29", 0xF029#16, 0xF0FF#16⟩, ⟨"FX33", 0xF033#16, 0xF0FF#16⟩, ⟨"FX55", 0xF055#16, 0xF0FF#16⟩,
    ⟨"FX65", 0xF065#16, 0xF0FF#16⟩ ]

/-- opcode_table.json, all 34 rows in its order. -/
def opcodeTable : List TableRow := opcodeTableLow ++ opcodeTable8 ++ opcodeTableHigh

/-- The mnemonic of an instruction's row. -/
def Instr.mnemonic : Instr → String
  | .cls => "00E0"
  | .ret => "00EE"
  | .jp _ => "1NNN"
  | .call _ => "2NNN"
  | .seByte _ _ => "3XNN"
  | .sneByte _ _ => "4XNN"
  | .seReg _ _ => "5XY0"
  | .ldByte _ _ => "6XNN"
  | .addByte _ _ => "7XNN"
  | .ldReg _ _ => "8XY0"
  | .orReg _ _ => "8XY1"
  | .andReg _ _ => "8XY2"
  | .xorReg _ _ => "8XY3"
  | .addReg _ _ => "8XY4"
  | .sub _ _ => "8XY5"
  | .shr _ _ => "8XY6"
  | .subn _ _ => "8XY7"
  | .shl _ _ => "8XYE"
  | .sneReg _ _ => "9XY0"
  | .ldI _ => "ANNN"
  | .jpV0 _ => "BNNN"
  | .rnd _ _ => "CXNN"
  | .drw _ _ _ => "DXYN"
  | .skp _ => "EX9E"
  | .sknp _ => "EXA1"
  | .ldVxDt _ => "FX07"
  | .ldVxK _ => "FX0A"
  | .ldDtVx _ => "FX15"
  | .ldStVx _ => "FX18"
  | .addI _ => "FX1E"
  | .ldF _ => "FX29"
  | .ldB _ => "FX33"
  | .storeRegs _ => "FX55"
  | .loadRegs _ => "FX65"

end Sys2Proof
end

