-- ==== Sys2Proof/Machine/Fetch.lean ====
section
/-! DEFINITION. Fetch, decode and classify (20_memory.md R53; 30_encoding.md R80 steps 1 to 3), and placing a word where
the next fetch finds it. -/

namespace Sys2Proof.Machine

/-- "always even, must stay within [0, 4094]": `PC[0] = 0` and `PC ≤ 0xFFE` (R53; log 16). -/
def validPC (pc : Word) : Bool := !pc.getLsbD 0 && decide (pc.toNat ≤ 0xFFE)

/-- The two bytes of the instruction: `MemRead(PC, 1)`, then `MemRead(PC + 1, 1)` (R53). -/
def State.fetchBytes (s : State) : List Byte := [s.memRead s.PC, s.memRead (s.PC + 1#16)]

/-- Fetch, decode and classify, or the fatal condition they raise, in the order of 60_exceptions.md R214. -/
def State.nextInstr (s : State) : Except FatalCondition Instr :=
  if validPC s.PC then
    match decode s.fetchBytes with
    | .ok (i, _) => .ok i
    | .error _ => .error .unknownInstruction
  else .error .invalidProgramCounter

/-- The state in which the next step fetches at a valid `PC`: the state itself when its engine is `Running` there, else
the state with the program entered at 0x200, as a load leaves it. -/
def State.readyToFetch (s : State) : State :=
  if s.mode = .running ∧ validPC s.PC then s else s.enterProgram

/-- Place an opcode-table word where the next step fetches, with no other agent step before it (log 12). -/
def State.placeWord (s : State) (nbits w : Nat) : State :=
  let r := s.readyToFetch
  { r with mem := r.mem.writeBytes r.PC.toNat (wordBytes (tableWord nbits w)), schedule := [] }

end Sys2Proof.Machine
end

