-- ==== Sys2Proof/Machine/Engine.lean ====
section
/-! DEFINITION. The execution step of a running engine (30_encoding.md R80), the execution tick (70_reset_and_hazards.md
R242), and the turn of the agent the schedule names (20_memory.md R58; log 9). -/

namespace Sys2Proof.Machine

/-- One execution step: fetch, decode, classify, execute. -/
def executionStep (s : State) : Result :=
  match s.nextInstr with
  | .ok i => exec i s
  | .error cause => raise cause s

/-- An execution tick: a step of a `Running` engine; "an execution tick delivered then changes nothing" in the other modes
(R242). -/
def executionTick (s : State) : Result :=
  match s.mode with
  | .running => executionStep s
  | .unloaded => .next s
  | .halted _ => .next s

/-- Deliver one agent step. -/
def deliver (a : AgentStep) (s : State) : Result :=
  match a with
  | .executionTick => executionTick s
  | a =>
    match s.port a with
    | .ok s' => .next s'
    | .error _ => .next s

/-- No agent step is listed: the engine runs freely, one step a turn. A run from `Unloaded` is refused, and a run that has
halted ends in its fault (R242, R251; log 10). -/
def freeRun (s : State) : Result :=
  match s.mode with
  | .running => executionStep s
  | .unloaded => .refused .unloaded
  | .halted cause => .fault (.halted cause)

/-- The next transition of the machine. -/
def turn (s : State) : Result :=
  match s.schedule with
  | a :: rest => deliver a { s with schedule := rest }
  | [] => freeRun s

end Sys2Proof.Machine
end

