-- ==== Sys2Proof/Machine/Step.lean ====
section
/-! DEFINITION. The step of the machine, and the placing of an instruction word for it. -/

namespace Sys2Proof.Machine

/-- One atomic transition (20_memory.md R58): the next scheduled agent step, or a step of the free-running engine. -/
def step (s : State) : Host.Outcome State Fault Refusal := turn s

/-- The state in which the very next step fetches and runs the opcode-table word `w` (log 12). -/
def State.withFetchWord (s : State) (nbits w : Nat) : State := s.placeWord nbits w

end Sys2Proof.Machine
end

