-- ==== Sys2Proof/Safety.lean ====
section
/-! DEFINITION. What the claims speak of: invariants of the state, the ends of a run (70_reset_and_hazards.md R251), the
causes of a halt (60_exceptions.md R211, R214), the pixels of a sprite (40_display_sprite.md R102) and the registers an
instruction writes. -/

namespace Sys2Proof.Machine

/-- Memory is in its canonical form, within 0x000..0xFFF. -/
def MemoryCanonical (s : State) : Prop := s.mem.wf = true

/-- A value that a fetch accepts as an address: even and at most 0xFFE. -/
def Fetchable (a : Word) : Prop := a.toNat % 2 = 0 ∧ a.toNat ≤ 0xFFE

/-- "each entry was pushed by 2NNN (so each is at most 0xFFE)" and PC is at most 0x10FE (10_state.md R25): every stack
entry in use is an address an instruction was fetched from. -/
def StackFetchable (s : State) : Prop :=
  (∀ j : Fin 16, j.val < s.SP.val → Fetchable (s.S[j.val]'j.isLt)) ∧ s.PC.toNat ≤ 0x10FE

/-- The next transition is an execution step of a running engine: no agent step is listed, or the next one is an execution
tick (20_memory.md R58; log 9). -/
def EngineTurn (s : State) : Prop :=
  s.mode = .running ∧ (s.schedule = [] ∨ s.schedule.head? = some .executionTick)

/-- "waiting for a key" (10_state.md R36). -/
def Holding (s : State) : Prop :=
  s.mode = .running ∧ (∃ x, s.nextInstr = .ok (.ldVxK x)) ∧ s.K = 0#16

/-- "Parked": `Running` at a jump to itself (70_reset_and_hazards.md R251; log 29). -/
def Parked (s : State) : Prop :=
  s.mode = .running ∧ ∃ nnn : Addr, s.nextInstr = .ok (.jp nnn) ∧ nnn.toNat = s.PC.toNat

/-- `CleanEntry` of 10_state.md R40 for a program of `len` bytes. -/
def CleanEntry (len : Nat) (s : State) : Prop :=
  (∀ r : Reg, s.getV r = 0#8) ∧ s.I = 0#16 ∧ (∀ j : Fin 16, s.S[j.val]'j.isLt = 0#16) ∧ s.SP = 0 ∧
  s.DT = 0#8 ∧ s.ST = 0#8 ∧ s.K = 0#16 ∧ (∀ r : Fin 32, s.FB[r.val]'r.isLt = 0#64) ∧
  (∀ a, 0x050 ≤ a → a < 0x200 → s.mem.read a = 0#8) ∧ (∀ a, 0x200 + len ≤ a → a < 0x1000 → s.mem.read a = 0#8)

/-- Some byte of the block of `n` bytes at `I` lies in the font region. -/
def BlockHitsFont (s : State) (n : Nat) : Prop := ∃ k, k < n ∧ maskAddr (s.I + BitVec.ofNat 16 k) < 0x050

/-- When a step of a running engine raises each fatal condition: the table of 60_exceptions.md R211, in the order of R214. -/
def HaltCause (s : State) : FatalCondition → Prop
  | .invalidProgramCounter => s.PC.toNat % 2 = 1 ∨ s.PC.toNat > 0xFFE
  | .unknownInstruction => Fetchable s.PC ∧ decode s.fetchBytes = .error .unknownInstruction
  | .stackOverflow => ∃ a, s.nextInstr = .ok (.call a) ∧ s.SP.val = 16
  | .stackUnderflow => s.nextInstr = .ok .ret ∧ s.SP.val = 0
  | .fontWrite => ∃ x, (s.nextInstr = .ok (.ldB x) ∧ BlockHitsFont s 3) ∨
      (s.nextInstr = .ok (.storeRegs x) ∧ BlockHitsFont s (x.val + 1))
  | .keyIndexOutOfRange => ∃ x, (s.nextInstr = .ok (.skp x) ∨ s.nextInstr = .ok (.sknp x)) ∧ (s.getV x).toNat > 15

/-- Sprite pixel (r, c) of a draw of `n` rows at (`vx`, `vy`): bit j of the byte at I + k lands on row `(vy + k) mod 32` and
column `(vx + 7 - j) mod 64` (40_display_sprite.md R101, R102; log 21). -/
def SpriteLit (s : State) (vx vy : Byte) (n : Nat) (r : Fin 32) (c : Fin 64) : Prop :=
  ∃ k, k < n ∧ ∃ j, j < 8 ∧ r.val = (vy.toNat + k) % 32 ∧ c.val = (vx.toNat + 7 - j) % 64 ∧
    (s.memRead (s.I + BitVec.ofNat 16 k)).getLsbD j = true

/-- The registers an instruction may change: its destination `x`, VF for the instructions 10_state.md R21 lists, and
V0..Vx for FX65. -/
def mayWrite : Instr → Reg → Prop
  | .ldByte x _, r | .addByte x _, r | .ldReg x _, r | .orReg x _, r | .andReg x _, r | .xorReg x _, r
  | .rnd x _, r | .ldVxDt x, r | .ldVxK x, r => r = x
  | .addReg x _, r | .sub x _, r | .shr x _, r | .subn x _, r | .shl x _, r => r = x ∨ r = 15
  | .drw _ _ _, r => r = 15
  | .loadRegs x, r => r.val ≤ x.val
  | .cls, _ | .ret, _ | .jp _, _ | .call _, _ | .seByte _ _, _ | .sneByte _ _, _ | .seReg _ _, _ | .sneReg _ _, _
  | .ldI _, _ | .jpV0 _, _ | .skp _, _ | .sknp _, _ | .ldDtVx _, _ | .ldStVx _, _ | .addI _, _ | .ldF _, _
  | .ldB _, _ | .storeRegs _, _ => False

/-- The addresses an instruction stores to (20_memory.md R52), by the block addresses its meaning uses. -/
def storesTo (s : State) : Instr → Nat → Prop
  | .ldB _, a => ∃ k, k < 3 ∧ a = maskAddr (s.I + BitVec.ofNat 16 k)
  | .storeRegs x, a => ∃ k, k ≤ x.val ∧ a = maskAddr (s.I + BitVec.ofNat 16 k)
  | .cls, _ | .ret, _ | .jp _, _ | .call _, _ | .seByte _ _, _ | .sneByte _ _, _ | .seReg _ _, _ | .sneReg _ _, _
  | .ldByte _ _, _ | .addByte _ _, _ | .ldReg _ _, _ | .orReg _ _, _ | .andReg _ _, _ | .xorReg _ _, _ | .addReg _ _, _
  | .sub _ _, _ | .shr _ _, _ | .subn _ _, _ | .shl _ _, _ | .ldI _, _ | .jpV0 _, _ | .rnd _ _, _ | .drw _ _ _, _
  | .skp _, _ | .sknp _, _ | .ldVxDt _, _ | .ldVxK _, _ | .ldDtVx _, _ | .ldStVx _, _ | .addI _, _ | .ldF _, _
  | .loadRegs _, _ => False

/-- The events an instruction that completes emits (20_memory.md R59). -/
def emits (s : State) : Instr → List Event
  | .cls | .drw _ _ _ => [.displayUpdate]
  | .ldStVx x => [.sound (s.getV x)]
  | .ret | .jp _ | .call _ | .seByte _ _ | .sneByte _ _ | .seReg _ _ | .sneReg _ _ | .ldByte _ _ | .addByte _ _
  | .ldReg _ _ | .orReg _ _ | .andReg _ _ | .xorReg _ _ | .addReg _ _ | .sub _ _ | .shr _ _ | .subn _ _ | .shl _ _
  | .ldI _ | .jpV0 _ | .rnd _ _ | .skp _ | .sknp _ | .ldVxDt _ | .ldVxK _ | .ldDtVx _ | .addI _ | .ldF _ | .ldB _
  | .storeRegs _ | .loadRegs _ => []

/-- `t` is `s` after an instruction that writes `value` to `V[x]`, no flag, and advances PC. -/
def PlainResult (s t : State) (x : Reg) (value : Nat) : Prop :=
  t = { s with V := t.V, PC := s.PC + 2#16 } ∧ (t.getV x).toNat = value ∧ ∀ r, r ≠ x → t.getV r = s.getV r

/-- `t` is `s` after an instruction that writes `value` to `V[x]`, then the flag to VF, and advances PC: when x = F the flag
is what VF holds (log 14). -/
def FlaggedResult (s t : State) (x : Reg) (value : Nat) (flag : Bool) : Prop :=
  t = { s with V := t.V, PC := s.PC + 2#16 } ∧ (x ≠ 15 → (t.getV x).toNat = value) ∧
  (t.getV 15).toNat = (if flag then 1 else 0) ∧ ∀ r, r ≠ x → r ≠ 15 → t.getV r = s.getV r

/-- The word of a pattern `?X??` (30_encoding.md R75): the pattern's fixed bits, x in bits 11..8 and a byte in bits 7..0. -/
def patternX (fixed : Word) (x : Reg) (nn : Byte) : Word := fixed ||| (BitVec.ofNat 16 x.val <<< 8) ||| zext16 nn

/-- The word of a pattern `?XY?` (30_encoding.md R75): x in bits 11..8, y in bits 7..4. -/
def patternXY (fixed : Word) (x y : Reg) : Word := fixed ||| (BitVec.ofNat 16 x.val <<< 8) ||| (BitVec.ofNat 16 y.val <<< 4)

/-- The word of a pattern `?NNN` (30_encoding.md R75): the address in bits 11..0. -/
def patternNNN (fixed : Word) (nnn : Addr) : Word := fixed ||| zext16 nnn

/-- Every byte outside a block of `n` bytes at `base` reads as before. -/
def UnchangedOutside (s t : State) (base : Word) (n : Nat) : Prop :=
  ∀ a, (∀ k, k < n → a ≠ maskAddr (base + BitVec.ofNat 16 k)) → t.mem.read a = s.mem.read a

end Sys2Proof.Machine
end

