-- ==== Sys2Proof/Certificates/Slice0/Obligations.lean ====
section
/-! DEFINITION. The statements for the provers. Each docstring names the rule of spec/ it formalises; where a clause rests on
a decision the spec marks as its own, or on a choice of the model, it names the decision and the log entry. -/

open Sys2Proof Sys2Proof.Machine

/-! ## Encoding (30_encoding.md) -/

/-- R70 to R79: no bit of an encoding is dropped, and exactly two bytes are consumed. -/
def Obligations.EncodeThenDecodeIsIdentity : Prop :=
  ∀ (i : Instr) (rest : List Byte), decode (encodeBytes i ++ rest) = .ok (i, rest)

/-- The other direction: bytes that decode are the encoding of what they decode to, so a word has one meaning. -/
def Obligations.DecodedBytesAreTheEncoding : Prop :=
  ∀ (hi lo : Byte) (rest : List Byte) (i : Instr) (rest' : List Byte),
    decode (hi :: lo :: rest) = .ok (i, rest') → encodeBytes i = [hi, lo] ∧ rest' = rest

/-- R72: every field of the view is its bit range of the word, and the fields overlap as the source says. -/
def Obligations.DecoderReadsTheFieldsOfTheWord : Prop :=
  ∀ w : Word,
    (decodeFields (w.extractLsb' 8 8) (w.extractLsb' 0 8)).code = w.extractLsb' 12 4 ∧
    (decodeFields (w.extractLsb' 8 8) (w.extractLsb' 0 8)).x = w.extractLsb' 8 4 ∧
    (decodeFields (w.extractLsb' 8 8) (w.extractLsb' 0 8)).y = w.extractLsb' 4 4 ∧
    (decodeFields (w.extractLsb' 8 8) (w.extractLsb' 0 8)).n = w.extractLsb' 0 4 ∧
    (decodeFields (w.extractLsb' 8 8) (w.extractLsb' 0 8)).nn = w.extractLsb' 0 8 ∧
    (decodeFields (w.extractLsb' 8 8) (w.extractLsb' 0 8)).nnn = w.extractLsb' 0 12 ∧
    (decodeFields (w.extractLsb' 8 8) (w.extractLsb' 0 8)).wellFormed = true

/-- R75: a word is the instruction of a row of the opcode table iff `(w & mask) = match`. -/
def Obligations.OpcodeTableSelectsTheInstruction : Prop :=
  ∀ (w : Word) (r : TableRow), r ∈ opcodeTable →
    (w &&& r.mask = r.pattern ↔ ∃ i, decodeWord w = some i ∧ i.mnemonic = r.mnemonic)

/-- R76 to R82: the words without semantics are exactly those of R81's table (its selection in families 0, 5 and 9 is the
spec's decision D11; log 19). -/
def Obligations.UnlistedWordsAreUnknown : Prop :=
  ∀ w : Word, decode (wordBytes w) = .error .unknownInstruction ↔
    (w.extractLsb' 12 4 = 0x0#4 ∧ w ≠ 0x00E0#16 ∧ w ≠ 0x00EE#16) ∨
    ((w.extractLsb' 12 4 = 0x5#4 ∨ w.extractLsb' 12 4 = 0x9#4) ∧ w.extractLsb' 0 4 ≠ 0x0#4) ∨
    (w.extractLsb' 12 4 = 0x8#4 ∧ w.extractLsb' 0 4 ∈ [0x8#4, 0x9#4, 0xA#4, 0xB#4, 0xC#4, 0xD#4, 0xF#4]) ∨
    (w.extractLsb' 12 4 = 0xE#4 ∧ w.extractLsb' 0 8 ∉ [0x9E#8, 0xA1#8]) ∨
    (w.extractLsb' 12 4 = 0xF#4 ∧
      w.extractLsb' 0 8 ∉ [0x07#8, 0x0A#8, 0x15#8, 0x18#8, 0x1E#8, 0x29#8, 0x33#8, 0x55#8, 0x65#8])

/-- Words of 95_test_vectors.md, one or more of each rule file, decode as it says. -/
def Obligations.WordsOfTheVectorsDecode : Prop :=
  decodeWord 0x00E0#16 = some .cls ∧ decodeWord 0x00EE#16 = some .ret ∧ decodeWord 0xD12F#16 = some (.drw 1 2 15) ∧
  decodeWord 0x2300#16 = some (.call 0x300#12) ∧ decodeWord 0x5120#16 = some (.seReg 1 2) ∧
  decodeWord 0x8F14#16 = some (.addReg 15 1) ∧ decodeWord 0xC30F#16 = some (.rnd 3 0x0F#8) ∧
  decodeWord 0xA2F0#16 = some (.ldI 0x2F0#12) ∧ decodeWord 0xFF65#16 = some (.loadRegs 15) ∧
  decodeWord 0xE19E#16 = some (.skp 1) ∧ decodeWord 0xF30A#16 = some (.ldVxK 3) ∧ decodeWord 0x8018#16 = none ∧
  decodeWord 0x0123#16 = none ∧ decodeWord 0x5121#16 = none ∧ decodeWord 0xF075#16 = none

/-! ## The step (20_memory.md R53, R58; 30_encoding.md R80; 60_exceptions.md R210 to R217; 70_reset_and_hazards.md R242) -/

/-- R53, R80: a step of a running engine runs the instruction that the two bytes at PC decode to; when the step is a
scheduled execution tick (log 9), the schedule has moved on. -/
def Obligations.StepRunsTheDecodedInstruction : Prop :=
  ∀ (s : State) (i : Instr) (rest : List Byte), s.mode = .running → Fetchable s.PC →
    decode [s.mem.read s.PC.toNat, s.mem.read (s.PC.toNat + 1)] = .ok (i, rest) →
    (s.schedule = [] → step s = exec i s) ∧
    (∀ tail, s.schedule = .executionTick :: tail → step s = exec i { s with schedule := tail })

/-- R210, R219: nothing a running engine meets ends in a fault or a refusal; every fatal condition is a next state. -/
def Obligations.RunningStepAlwaysAnswersNext : Prop :=
  ∀ s : State, s.mode = .running → ∃ t, step s = .next t

/-- R213 (the spec's decision D22; log 25): an execution step that halts changes `mode` and nothing else, whether the engine
runs freely or the step is a scheduled execution tick (log 9), which also moves the schedule on. -/
def Obligations.HaltingStepChangesOnlyTheMode : Prop :=
  ∀ s t : State, EngineTurn s → step s = .next t → t.mode ≠ .running →
    ∃ cause, t = { s with schedule := s.schedule.tail, mode := .halted cause }

/-- R211, R214 (the spec's decisions D8 to D11, D22, D27; logs 16 to 19, 25): each fatal condition is raised exactly when the
table of R211 says, in the order of R214, by a free-running step and by a scheduled execution tick (log 9) alike. -/
def Obligations.CauseOfEveryHalt : Prop :=
  ∀ (s : State) (cause : FatalCondition), EngineTurn s →
    (step s = .next { s with schedule := s.schedule.tail, mode := .halted cause } ↔ HaltCause s cause)

/-- R242 (the spec's decision D21; log 10): outside `Running` a delivered execution tick changes nothing; a run with no agent
step left is refused from `Unloaded` and has faulted with its cause from `Halted`. -/
def Obligations.NoStepOutsideRunning : Prop :=
  ∀ s : State, s.mode ≠ .running →
    (∀ tail, s.schedule = .executionTick :: tail → step s = .next { s with schedule := tail }) ∧
    (s.schedule = [] → s.mode = .unloaded → step s = .refused .unloaded) ∧
    (∀ cause, s.schedule = [] → s.mode = .halted cause → step s = .fault (.halted cause))

/-- R58, R217, R220, R224, R241 (the spec's decisions D17, D20; logs 9, 24, 27): the step of a scheduled timer tick, key press,
key release or load is that operation's own result, and a request it turns away changes nothing but the schedule. -/
def Obligations.AgentsTakeTheirTurn : Prop :=
  ∀ (s : State) (tail : List AgentStep),
    (s.schedule = .timerTick :: tail → step s = .next (State.timerTick { s with schedule := tail })) ∧
    (∀ k, s.schedule = .pressKey k :: tail →
      (k ≤ 15 → ∃ t, State.pressKey { s with schedule := tail } k = .ok t ∧ step s = .next t) ∧
      (k > 15 → step s = .next { s with schedule := tail })) ∧
    (∀ k, s.schedule = .releaseKey k :: tail →
      (k ≤ 15 → ∃ t, State.releaseKey { s with schedule := tail } k = .ok t ∧ step s = .next t) ∧
      (k > 15 → step s = .next { s with schedule := tail })) ∧
    (∀ bytes, s.schedule = .load bytes :: tail →
      (bytes.length ≤ 3584 →
        ∃ t, State.load { s with schedule := tail } bytes = .ok (bytes.length, t) ∧ step s = .next t) ∧
      (bytes.length > 3584 → step s = .next { s with schedule := tail }))

/-! ## Reset and invariants -/

/-- The invariants hold at reset, which is `Unloaded` with the font in memory (R40, R240); the other values are the model's
choice (logs 4 to 7). -/
def Obligations.ResetMeetsTheInvariants : Prop :=
  MemoryCanonical State.reset ∧ StackFetchable State.reset ∧ State.reset.mode = .unloaded ∧
  (∀ (a : Nat) (h : a < 80), State.reset.mem.read a = defaultFont[a]) ∧ CleanEntry 0 State.reset

/-- R50, R51: every step keeps memory in its canonical form within 0x000..0xFFF. -/
def Obligations.EveryStepKeepsMemoryCanonical : Prop :=
  ∀ s t : State, MemoryCanonical s → step s = .next t → MemoryCanonical t

/-- R25: from a state whose stack entries in use were pushed by 2NNN, every step leaves such a state, with PC at most 0x10FE
(the bound rests on the fetch check, the spec's decision D8; log 16). -/
def Obligations.EveryStepKeepsTheStackFetchable : Prop :=
  ∀ s t : State, StackFetchable s → step s = .next t → StackFetchable t

/-- R31, R54: the font is "never subsequently modified by the engine", nor by any other agent's step (`FontWrite` is the
spec's decision D9; log 17). -/
def Obligations.NoStepChangesTheFont : Prop :=
  ∀ s t : State, step s = .next t → ∀ a, a < 0x050 → t.mem.read a = s.mem.read a

/-! ## Who may change, and who may read, each element -/

/-- R28: K changes only by a key edge of a key 0..15. -/
def Obligations.KeyMaskChangesOnlyByKeyEdges : Prop :=
  ∀ s t : State, step s = .next t → t.K ≠ s.K →
    ∃ k tail, k ≤ 15 ∧ (s.schedule = .pressKey k :: tail ∨ s.schedule = .releaseKey k :: tail)

/-- R28: no instruction but EX9E, EXA1 and FX0A reads K. -/
def Obligations.KeyMaskIsReadOnlyByKeyInstructions : Prop :=
  ∀ (i : Instr) (s t : State) (keys : Word), (∀ x, i ≠ .skp x ∧ i ≠ .sknp x ∧ i ≠ .ldVxK x) → exec i s = .next t →
    exec i { s with K := keys } = .next { t with K := keys }

/-- R30: the framebuffer is written only by 00E0 and DXYN, and no agent beside the engine writes it; among the instructions
it is read only by DXYN. -/
def Obligations.FramebufferConcernsOnlyClearAndDraw : Prop :=
  (∀ (i : Instr) (s t : State) (fb : Vector Row 32), i ≠ .cls → (∀ x y n, i ≠ .drw x y n) → exec i s = .next t →
    exec i { s with FB := fb } = .next { t with FB := fb }) ∧
  (∀ (s : State) (fb : Vector Row 32), exec .cls { s with FB := fb } = exec .cls s) ∧
  (∀ (a : AgentStep) (tail : List AgentStep) (s t : State), s.schedule = a :: tail → a ≠ .executionTick →
    step s = .next t → t.FB = s.FB)

/-- R27: no instruction reads ST, and of the instructions only FX18 writes it. -/
def Obligations.SoundTimerIsNeverRead : Prop :=
  ∀ (i : Instr) (s t : State) (v : Byte), exec i s = .next t →
    ((∀ x, i ≠ .ldStVx x) → exec i { s with ST := v } = .next { t with ST := v }) ∧
    ((∃ x, i = .ldStVx x) → exec i { s with ST := v } = .next t)

/-- R26: stack entries at and above SP are stale values that no instruction reads. -/
def Obligations.StaleStackEntriesAreNeverRead : Prop :=
  ∀ (i : Instr) (s t : State) (S' : Vector Word 16),
    (∀ j : Fin 16, j.val < s.SP.val → S'[j.val]'j.isLt = s.S[j.val]'j.isLt) → exec i s = .next t →
    ∃ t', exec i { s with S := S' } = .next t' ∧ t' = { t with S := t'.S } ∧
      ∀ j : Fin 16, j.val < t.SP.val → t'.S[j.val]'j.isLt = t.S[j.val]'j.isLt

/-- R26: only 2NNN and 00EE change the stack or its pointer, and 00EE leaves the popped entry in place. -/
def Obligations.StackChangesOnlyByCallAndReturn : Prop :=
  ∀ (i : Instr) (s t : State), exec i s = .next t →
    ((t.S ≠ s.S ∨ t.SP ≠ s.SP) → i = .ret ∨ ∃ a, i = .call a) ∧ (i = .ret → t.S = s.S)

/-- R59 (the spec's decisions D14, D16, D28; log 22): an instruction appends exactly its own events, and the log is
write-only for the block. -/
def Obligations.EventLogIsAppendedAndNeverRead : Prop :=
  ∀ (i : Instr) (s t : State) (log : List Event), exec i s = .next t →
    t.events = s.events ++ emits s i ∧
    exec i { s with events := log } = .next { t with events := log ++ emits s i }

/-- R23 with R176: I is written only by ANNN, FX1E and FX29, and by FX55 and FX65 outside the default
`LOADSTORE_INDEX_MODE` (log 3). -/
def Obligations.IndexChangesOnlyByItsInstructions : Prop :=
  ∀ (i : Instr) (s t : State), exec i s = .next t → t.I ≠ s.I →
    (∃ a, i = .ldI a) ∨ (∃ x, i = .addI x ∨ i = .ldF x) ∨
    (s.params.indexMode ≠ .unchanged ∧ ∃ x, i = .storeRegs x ∨ i = .loadRegs x)

/-- R52: an instruction changes no byte of memory but those FX33 and FX55 store to. -/
def Obligations.MemoryChangesOnlyWhereStored : Prop :=
  ∀ (i : Instr) (s t : State), exec i s = .next t →
    (∀ a, t.mem.read a ≠ s.mem.read a → storesTo s i a) ∧ ((∀ a, ¬ storesTo s i a) → t.mem = s.mem)

/-- R20, R21 (the spec's decision D6 for 8XY1 to 8XY3; log 15): a register changes only as the destination of the
instruction, as VF for the flag-writing instructions, or as one of V0..Vx for FX65. -/
def Obligations.RegistersChangeOnlyWhereNamed : Prop :=
  ∀ (i : Instr) (s t : State) (r : Reg), exec i s = .next t → t.getV r ≠ s.getV r → mayWrite i r

/-- R27, R247: the timers never rise, but for DT by FX15 and ST by FX18. -/
def Obligations.TimersRiseOnlyWhenSet : Prop :=
  ∀ s t : State, step s = .next t →
    (t.DT.toNat > s.DT.toNat → ∃ x, s.nextInstr = .ok (.ldDtVx x)) ∧
    (t.ST.toNat > s.ST.toNat → ∃ x, s.nextInstr = .ok (.ldStVx x))

/-- R197 with R251: a step of a free-running engine that changes nothing is an FX0A hold or a jump to itself (1NNN, or BNNN
with nnn + V0 = PC). That FX0A does not hold while a key is pressed is the spec's decision D15 (log 23), and that BNNN jumps
to the unmasked sum its D30 (log 26). -/
def Obligations.OnlyHoldOrSelfJumpStandsStill : Prop :=
  ∀ s : State, s.mode = .running → s.schedule = [] →
    (step s = .next s ↔ Holding s ∨ ∃ a : Addr,
      (s.nextInstr = .ok (.jp a) ∧ a.toNat = s.PC.toNat) ∨
      (s.nextInstr = .ok (.jpV0 a) ∧ a.toNat + (s.getV 0).toNat = s.PC.toNat))

/-- R221, R247: a timer tick may come before or after any instruction that touches no timer, with one outcome. -/
def Obligations.TimerTickCommutesWithInstructions : Prop :=
  ∀ (i : Instr) (s t : State), (∀ x, i ≠ .ldVxDt x ∧ i ≠ .ldDtVx x ∧ i ≠ .ldStVx x) → exec i s = .next t →
    exec i s.timerTick = .next t.timerTick

/-! ## Display and sprite engine (40_display_sprite.md) -/

/-- R100 (the event when the screen was clear already is the spec's decision D14; log 22). -/
def Obligations.ClearScreenClearsEveryPixel : Prop :=
  ∀ s : State, ∃ t, exec .cls s = .next t ∧
    t = { s with FB := t.FB, events := s.events ++ [.displayUpdate], PC := s.PC + 2#16 } ∧
    ∀ r c, pixel t.FB r c = false

/-- R101 to R105, pixel by pixel (the bit order is the spec's decision D13, n = 0 its D12, the event when no pixel changed its
D14; logs 20, 21, 22): DXYN XORs the sprite, wrapped on both axes, onto the framebuffer, and VF is 1 iff a lit pixel is
cleared. -/
def Obligations.DrawXorsTheWrappedSprite : Prop :=
  ∀ (x y : Reg) (n : Fin 16) (s : State), ∃ t, exec (.drw x y n) s = .next t ∧
    t = { s with
      FB := t.FB, V := s.V.set 15 (t.getV 15), events := s.events ++ [.displayUpdate], PC := s.PC + 2#16 } ∧
    (∀ r c, pixel t.FB r c = true ↔
      ¬(pixel s.FB r c = true ↔ SpriteLit s (s.getV x) (s.getV y) n.val r c)) ∧
    ((∃ r c, pixel s.FB r c = true ∧ SpriteLit s (s.getV x) (s.getV y) n.val r c) → t.getV 15 = 1#8) ∧
    ((¬∃ r c, pixel s.FB r c = true ∧ SpriteLit s (s.getV x) (s.getV y) n.val r c) → t.getV 15 = 0#8)

/-- The property behind the source's second draw (95_test_vectors.md S5): where neither coordinate is VF, drawing the same
sprite again restores the framebuffer, and it collides if the first draw did not and the sprite has a lit pixel. -/
def Obligations.DrawingTwiceRestoresTheScreen : Prop :=
  ∀ (x y : Reg) (n : Fin 16) (s t : State), x ≠ 15 → y ≠ 15 → exec (.drw x y n) s = .next t →
    ∃ u, exec (.drw x y n) t = .next u ∧ u.FB = s.FB ∧
      (t.getV 15 = 0#8 → (u.getV 15 = 1#8 ↔ ∃ r c, SpriteLit s (s.getV x) (s.getV y) n.val r c))

/-! ## Control flow (41_control_flow.md) -/

/-- R121: `PC <- zext_16(nnn)`, nothing else. -/
def Obligations.JumpSetsProgramCounter : Prop :=
  ∀ (nnn : Addr) (s : State), ∃ t, exec (.jp nnn) s = .next t ∧ t.PC.toNat = nnn.toNat ∧ t = { s with PC := t.PC }

/-- R122: the address of the call is pushed and control goes to nnn; `StackOverflow`, with no other change, when SP = 16. -/
def Obligations.CallPushesItsOwnAddress : Prop :=
  ∀ (nnn : Addr) (s : State),
    (s.SP.val = 16 → exec (.call nnn) s = .next { s with mode := .halted .stackOverflow }) ∧
    (s.SP.val < 16 → ∃ t, exec (.call nnn) s = .next t ∧
      (∀ j : Fin 16, t.S[j.val]'j.isLt = if j.val = s.SP.val then s.PC else s.S[j.val]'j.isLt) ∧
      t.SP.val = s.SP.val + 1 ∧ t.PC.toNat = nnn.toNat ∧ t = { s with S := t.S, SP := t.SP, PC := t.PC })

/-- R120: the popped address plus 2, the entry left in place; `StackUnderflow`, with no other change, when SP = 0. -/
def Obligations.ReturnGoesPastTheCall : Prop :=
  ∀ s : State,
    (s.SP.val = 0 → exec .ret s = .next { s with mode := .halted .stackUnderflow }) ∧
    (∀ j : Fin 16, s.SP.val = j.val + 1 → ∃ t, exec .ret s = .next t ∧
      t.PC = s.S[j.val]'j.isLt + 2#16 ∧ t.SP.val = j.val ∧ t = { s with SP := t.SP, PC := t.PC })

/-- R120 with R122, R26: whatever ran in between, nested calls that have returned included, if SP and the entries below it are
as the call left them, the return resumes after the call with SP as before. -/
def Obligations.ReturnUndoesCall : Prop :=
  ∀ (nnn : Addr) (s t u : State), s.SP.val < 16 → exec (.call nnn) s = .next t → u.SP = t.SP →
    (∀ j : Fin 16, j.val < t.SP.val → u.S[j.val]'j.isLt = t.S[j.val]'j.isLt) →
    ∃ v, exec .ret u = .next v ∧ v.PC = s.PC + 2#16 ∧ v.SP = s.SP

/-- R124, R125: 3XNN and 4XNN advance by 4 when their condition holds, else by 2; and their words. -/
def Obligations.SkipsCompareARegisterWithAByte : Prop :=
  ∀ (x : Reg) (nn : Byte) (s : State),
    exec (.seByte x nn) s = .next { s with PC := s.PC + if s.getV x = nn then 4#16 else 2#16 } ∧
    exec (.sneByte x nn) s = .next { s with PC := s.PC + if s.getV x = nn then 2#16 else 4#16 } ∧
    decodeWord (patternX 0x3000#16 x nn) = some (.seByte x nn) ∧ decodeWord (patternX 0x4000#16 x nn) = some (.sneByte x nn)

/-- R123, R126, R127: the same for two registers. -/
def Obligations.SkipsCompareTwoRegisters : Prop :=
  ∀ (x y : Reg) (s : State),
    exec (.seReg x y) s = .next { s with PC := s.PC + if s.getV x = s.getV y then 4#16 else 2#16 } ∧
    exec (.sneReg x y) s = .next { s with PC := s.PC + if s.getV x = s.getV y then 2#16 else 4#16 }

/-- R128 (that the sum is not masked is the spec's decision D30; log 26): the target is exactly nnn + V0. -/
def Obligations.IndexedJumpAddsV0 : Prop :=
  ∀ (nnn : Addr) (s : State), ∃ t, exec (.jpV0 nnn) s = .next t ∧
    t.PC.toNat = nnn.toNat + (s.getV 0).toNat ∧ t = { s with PC := t.PC }

/-! ## 8-bit arithmetic (42_alu.md) -/

/-- R144, R145: load and add of a byte; the sum is modulo 256 and no flag is written; and their words. -/
def Obligations.ImmediateFormsWriteOnlyTheirRegister : Prop :=
  ∀ (x : Reg) (nn : Byte) (s : State),
    (∃ t, exec (.ldByte x nn) s = .next t ∧ PlainResult s t x nn.toNat) ∧
    (∃ t, exec (.addByte x nn) s = .next t ∧ PlainResult s t x (((s.getV x).toNat + nn.toNat) % 256)) ∧
    decodeWord (patternX 0x6000#16 x nn) = some (.ldByte x nn) ∧ decodeWord (patternX 0x7000#16 x nn) = some (.addByte x nn)

/-- R146: assign, and its word. -/
def Obligations.AssignCopiesARegister : Prop :=
  ∀ (x y : Reg) (s : State), (∃ t, exec (.ldReg x y) s = .next t ∧ PlainResult s t x (s.getV y).toNat) ∧
    decodeWord (patternXY 0x8000#16 x y) = some (.ldReg x y)

/-- R147 to R149 (that VF is not written is the spec's decision D6; log 15). -/
def Obligations.LogicOperationsWriteNoFlag : Prop :=
  ∀ (x y : Reg) (s : State),
    (∃ t, exec (.orReg x y) s = .next t ∧ PlainResult s t x ((s.getV x).toNat ||| (s.getV y).toNat)) ∧
    (∃ t, exec (.andReg x y) s = .next t ∧ PlainResult s t x ((s.getV x).toNat &&& (s.getV y).toNat)) ∧
    (∃ t, exec (.xorReg x y) s = .next t ∧ PlainResult s t x ((s.getV x).toNat ^^^ (s.getV y).toNat))

/-- R140, R150: the sum modulo 256 and the carry of the exact sum; for x = F the flag wins (the spec's decision D5; log 14). -/
def Obligations.AddWritesSumAndCarry : Prop :=
  ∀ (x y : Reg) (s : State), ∃ t, exec (.addReg x y) s = .next t ∧
    FlaggedResult s t x (((s.getV x).toNat + (s.getV y).toNat) % 256) (decide ((s.getV x).toNat + (s.getV y).toNat > 255)) ∧
    (x ≠ 15 → (t.getV x).toNat + 256 * (t.getV 15).toNat = (s.getV x).toNat + (s.getV y).toNat)

/-- R142, R151, R153 for every `SUB_FLAG_RULE` (the parameter is the spec's decision D3, the write order its D5; logs 1, 14):
the difference modulo 256 and the SUB flag of 8XY5 (Vx - Vy) and 8XY7 (Vy - Vx). -/
def Obligations.SubtractWritesDifferenceAndFlag : Prop :=
  ∀ (x y : Reg) (s : State) (flag : Nat → Nat → Bool),
    (s.params.subFlag = .notBorrow → ∀ a b, flag a b = decide (a ≥ b)) →
    (s.params.subFlag = .notBorrowStrict → ∀ a b, flag a b = decide (a > b)) →
    (s.params.subFlag = .borrow → ∀ a b, flag a b = decide (a < b)) →
    (∃ t, exec (.sub x y) s = .next t ∧
      FlaggedResult s t x (((s.getV x).toNat + 256 - (s.getV y).toNat) % 256) (flag (s.getV x).toNat (s.getV y).toNat)) ∧
    (∃ t, exec (.subn x y) s = .next t ∧
      FlaggedResult s t x (((s.getV y).toNat + 256 - (s.getV x).toNat) % 256) (flag (s.getV y).toNat (s.getV x).toNat))

/-- R143, R152, R154 for every `SHIFT_SOURCE` (the parameter is the spec's decision D4, the write order its D5; logs 2, 14):
half or twice the value modulo 256, and the bit shifted out. -/
def Obligations.ShiftsWriteResultAndBitOut : Prop :=
  ∀ (x y : Reg) (s : State) (v : Nat),
    (s.params.shiftSource = .vx → v = (s.getV x).toNat) → (s.params.shiftSource = .vy → v = (s.getV y).toNat) →
    (∃ t, exec (.shr x y) s = .next t ∧ FlaggedResult s t x (v / 2) (decide (v % 2 = 1))) ∧
    (∃ t, exec (.shl x y) s = .next t ∧ FlaggedResult s t x (2 * v % 256) (decide (v ≥ 128)))

/-- R155, R227 (a free byte is the spec's decision D18; log 8): the drawn byte masked by nn, where the byte is the one the
host substituted, else the free byte of this draw, whatever it is; the draw is used up. -/
def Obligations.RandomMasksTheDrawnByte : Prop :=
  ∀ (x : Reg) (nn : Byte) (s : State),
    (∀ b feed, s.randomFeed = b :: feed →
      ∃ t, exec (.rnd x nn) s = .next t ∧ PlainResult { s with randomFeed := feed } t x (b &&& nn).toNat) ∧
    (s.randomFeed = [] → ∃ t, exec (.rnd x nn) s = .next t ∧
      PlainResult { s with draws := s.draws + 1 } t x (Config.freeByte s.draws &&& nn).toNat)

/-! ## Index register and memory transfers (43_index_memory.md) -/

/-- R170, R171, R172: ANNN, FX1E (modulo 2^16, no flag) and FX29 (5 bytes per glyph, low nibble) write I and PC only; and
their words. -/
def Obligations.IndexInstructionsSetIndex : Prop :=
  ∀ (nnn : Addr) (x : Reg) (s : State),
    (∃ t, exec (.ldI nnn) s = .next t ∧ t.I.toNat = nnn.toNat ∧ t = { s with I := t.I, PC := s.PC + 2#16 }) ∧
    (∃ t, exec (.addI x) s = .next t ∧ t.I.toNat = (s.I.toNat + (s.getV x).toNat) % 65536 ∧
      t = { s with I := t.I, PC := s.PC + 2#16 }) ∧
    (∃ t, exec (.ldF x) s = .next t ∧ t.I.toNat = 5 * ((s.getV x).toNat % 16) ∧
      t = { s with I := t.I, PC := s.PC + 2#16 }) ∧
    decodeWord (patternNNN 0xA000#16 nnn) = some (.ldI nnn) ∧ decodeWord (patternX 0xF000#16 x 0x1E#8) = some (.addI x) ∧
    decodeWord (patternX 0xF000#16 x 0x29#8) = some (.ldF x)

/-- R173 (`FontWrite` is the spec's decision D9; log 17): the three bytes at I are the decimal digits of V[x], every other
byte is as before, and a block that touches the font halts with nothing written. -/
def Obligations.BcdStoresTheDecimalDigits : Prop :=
  ∀ (x : Reg) (s : State),
    (BlockHitsFont s 3 → exec (.ldB x) s = .next { s with mode := .halted .fontWrite }) ∧
    (MemoryCanonical s → ¬BlockHitsFont s 3 → ∃ t, exec (.ldB x) s = .next t ∧
      100 * (t.memRead s.I).toNat + 10 * (t.memRead (s.I + 1#16)).toNat + (t.memRead (s.I + 2#16)).toNat
        = (s.getV x).toNat ∧
      (t.memRead s.I).toNat ≤ 2 ∧ (t.memRead (s.I + 1#16)).toNat ≤ 9 ∧ (t.memRead (s.I + 2#16)).toNat ≤ 9 ∧
      UnchangedOutside s t s.I 3 ∧ t = { s with mem := t.mem, PC := s.PC + 2#16 })

/-- R174, R176 for every `LOADSTORE_INDEX_MODE` (the spec's decisions D7, D9; logs 3, 17): V0..Vx at I, every other byte as
before, I by the mode, and a block that touches the font halts with nothing written. -/
def Obligations.StoreRegistersFillsTheBlock : Prop :=
  ∀ (x : Reg) (s : State),
    (BlockHitsFont s (x.val + 1) → exec (.storeRegs x) s = .next { s with mode := .halted .fontWrite }) ∧
    (MemoryCanonical s → ¬BlockHitsFont s (x.val + 1) → ∃ t, exec (.storeRegs x) s = .next t ∧
      (∀ r : Reg, r.val ≤ x.val → t.memRead (s.I + BitVec.ofNat 16 r.val) = s.getV r) ∧
      UnchangedOutside s t s.I (x.val + 1) ∧
      (s.params.indexMode = .unchanged → t.I = s.I) ∧
      (s.params.indexMode = .incrementX1 → t.I = s.I + BitVec.ofNat 16 x.val + 1#16) ∧
      (s.params.indexMode = .incrementX → t.I = s.I + BitVec.ofNat 16 x.val) ∧
      t = { s with mem := t.mem, I := t.I, PC := s.PC + 2#16 })

/-- R175, R176 for every `LOADSTORE_INDEX_MODE` (the spec's decision D7; log 3): V0..Vx from memory at I, the other registers
and all of memory as before. -/
def Obligations.LoadRegistersReadsTheBlock : Prop :=
  ∀ (x : Reg) (s : State), ∃ t, exec (.loadRegs x) s = .next t ∧
    (∀ r : Reg, t.getV r = if r.val ≤ x.val then s.memRead (s.I + BitVec.ofNat 16 r.val) else s.getV r) ∧
    (s.params.indexMode = .unchanged → t.I = s.I) ∧
    (s.params.indexMode = .incrementX1 → t.I = s.I + BitVec.ofNat 16 x.val + 1#16) ∧
    (s.params.indexMode = .incrementX → t.I = s.I + BitVec.ofNat 16 x.val) ∧
    t = { s with V := t.V, I := t.I, PC := s.PC + 2#16 }

/-- R174 with R175: a load of V0..Vx from where they were stored gives the stored values back, whatever the registers hold
by then. -/
def Obligations.LoadRestoresStoredRegisters : Prop :=
  ∀ (x : Reg) (s t u : State), MemoryCanonical s → ¬BlockHitsFont s (x.val + 1) → exec (.storeRegs x) s = .next t →
    u.mem = t.mem → u.I = s.I → ∃ v, exec (.loadRegs x) u = .next v ∧ ∀ r : Reg, r.val ≤ x.val → v.getV r = s.getV r

/-! ## Keys and timers (44_keys_timers.md, 60_exceptions.md) -/

/-- R190 to R192 (`KeyIndexOutOfRange` is the spec's decision D10; log 18). -/
def Obligations.KeySkipsTestTheNumberedKey : Prop :=
  ∀ (x : Reg) (s : State),
    ((s.getV x).toNat ≤ 15 →
      exec (.skp x) s = .next { s with PC := s.PC + if s.K.getLsbD (s.getV x).toNat then 4#16 else 2#16 } ∧
      exec (.sknp x) s = .next { s with PC := s.PC + if s.K.getLsbD (s.getV x).toNat then 2#16 else 4#16 }) ∧
    ((s.getV x).toNat > 15 →
      exec (.skp x) s = .next { s with mode := .halted .keyIndexOutOfRange } ∧
      exec (.sknp x) s = .next { s with mode := .halted .keyIndexOutOfRange })

/-- R196, R28 (the level is the spec's decision D15; log 23): a hold changes nothing; with a key pressed the lowest one is
stored. -/
def Obligations.WaitStoresTheLowestPressedKey : Prop :=
  ∀ (x : Reg) (s : State),
    (s.K = 0#16 → exec (.ldVxK x) s = .next s) ∧
    (s.K ≠ 0#16 → ∃ t k, exec (.ldVxK x) s = .next t ∧ PlainResult s t x k ∧ k ≤ 15 ∧ s.K.getLsbD k = true ∧
      ∀ j, j < k → s.K.getLsbD j = false)

/-- R193, R194: FX07 reads the delay timer into V[x], FX15 sets it from V[x]; and their words. -/
def Obligations.DelayTimerIsReadAndSet : Prop :=
  ∀ (x : Reg) (s : State),
    (∃ t, exec (.ldVxDt x) s = .next t ∧ PlainResult s t x s.DT.toNat) ∧
    exec (.ldDtVx x) s = .next { s with DT := s.getV x, PC := s.PC + 2#16 } ∧
    decodeWord (patternX 0xF000#16 x 0x07#8) = some (.ldVxDt x) ∧ decodeWord (patternX 0xF000#16 x 0x15#8) = some (.ldDtVx x)

/-- R195, R226 (the event for v = 0 and the level are the spec's decision D16; log 22): FX18 sets ST and emits `Sound(v)`, and
the level follows ST. -/
def Obligations.SoundTimerIsSetAndAnnounced : Prop :=
  ∀ (x : Reg) (s : State), ∃ t, exec (.ldStVx x) s = .next t ∧
    t = { s with ST := s.getV x, events := s.events ++ [.sound (s.getV x)], PC := s.PC + 2#16 } ∧
    (t.soundOn = true ↔ (s.getV x).toNat ≠ 0)

/-- R220: n timer ticks take n from each timer, floored at 0, and touch nothing else. -/
def Obligations.TimerTicksCountDownToZero : Prop :=
  ∀ (n : Nat) (s : State),
    (Nat.iterate State.timerTick n s).DT.toNat = s.DT.toNat - n ∧
    (Nat.iterate State.timerTick n s).ST.toNat = s.ST.toNat - n ∧
    Nat.iterate State.timerTick n s = { s with
      DT := (Nat.iterate State.timerTick n s).DT, ST := (Nat.iterate State.timerTick n s).ST }

/-- R224: a key edge outside 0..15 is rejected; any other sets or clears its bit of K, nothing else, idempotently. -/
def Obligations.KeyEdgesSetAndClearOneBit : Prop :=
  ∀ (s : State) (k : Nat),
    (k > 15 → s.pressKey k = .error .invalidKey ∧ s.releaseKey k = .error .invalidKey) ∧
    (k ≤ 15 →
      (∃ t, s.pressKey k = .ok t ∧ (∀ j, j < 16 → t.K.getLsbD j = (decide (j = k) || s.K.getLsbD j)) ∧
        t = { s with K := t.K } ∧ t.pressKey k = .ok t) ∧
      (∃ t, s.releaseKey k = .ok t ∧ (∀ j, j < 16 → t.K.getLsbD j = (!decide (j = k) && s.K.getLsbD j)) ∧
        t = { s with K := t.K } ∧ t.releaseKey k = .ok t))

/-! ## Load, construction, end of a run (70_reset_and_hazards.md) -/

/-- R241 (the size limit and the mode are the spec's decision D20; log 24). -/
def Obligations.LoadCopiesTheProgram : Prop :=
  ∀ (s : State) (bytes : List Byte),
    (bytes.length > 3584 → s.load bytes = .error .programTooLong) ∧
    (MemoryCanonical s → bytes.length ≤ 3584 → ∃ t, s.load bytes = .ok (bytes.length, t) ∧
      (∀ (k : Nat) (h : k < bytes.length), t.mem.read (0x200 + k) = bytes[k]) ∧
      (∀ a, a < 0x200 ∨ 0x200 + bytes.length ≤ a → t.mem.read a = s.mem.read a) ∧
      t = { s with mem := t.mem, PC := 0x200#16, mode := .running })

/-- R40, R240 (the launch values are the spec's parameter, decisions D2, D21, D24): construction writes the given font, takes
every other element from the launch state and leaves the engine `Unloaded`; reset is construction with the default font and
the launch values of logs 5 to 7. -/
def Obligations.ConstructionWritesTheFont : Prop :=
  State.reset = construct launchParams defaultFont cleanLaunch ∧
  ∀ (p : Config.Params) (font : Vector Byte 80) (l : LaunchState), l.mem.wf = true →
    (∀ (a : Nat) (h : a < 80), (construct p font l).mem.read a = font[a]) ∧
    (∀ a, 80 ≤ a → (construct p font l).mem.read a = l.mem.read a) ∧
    MemoryCanonical (construct p font l) ∧ (construct p font l).mode = .unloaded ∧
    (construct p font l).V = l.V ∧ (construct p font l).I = l.I ∧ (construct p font l).PC = l.PC ∧
    (construct p font l).S = l.S ∧ (construct p font l).SP = l.SP ∧ (construct p font l).DT = l.DT ∧
    (construct p font l).ST = l.ST ∧ (construct p font l).K = l.K ∧ (construct p font l).FB = l.FB

/-- R251 (the spec's decision D26; log 29): every later execution step of a parked engine leaves the state unchanged, also
after any timer ticks. -/
def Obligations.ParkedEngineStaysParked : Prop :=
  ∀ (s : State) (n : Nat), Parked s → s.schedule = [] →
    step (Nat.iterate State.timerTick n s) = .next (Nat.iterate State.timerTick n s) ∧
    Parked (Nat.iterate State.timerTick n s)
end

