-- ==== Sys2Proof/Laws/Decode.lean ====
section
/-! SUPPORT. Small laws of the decoder and encoder. -/

namespace Sys2Proof

/-- The operand types admit nothing that `Instr.wellFormed` refuses. -/
theorem Instr.wellFormed_all (i : Instr) : i.wellFormed = true := by
  cases i <;> simp [Instr.wellFormed] <;> omega

@[simp] theorem nibReg_regNib (r : Reg) : nibReg (regNib r) = r := by
  apply Fin.ext
  simp [nibReg, regNib]

@[simp] theorem regNib_nibReg (v : Nibble) : regNib (nibReg v) = v := by
  simp [nibReg, regNib]

@[simp] theorem hiNib_joinNibbles (a b : Nibble) : hiNib (joinNibbles a b) = a := by revert a b; decide

@[simp] theorem loNib_joinNibbles (a b : Nibble) : loNib (joinNibbles a b) = b := by revert a b; decide

@[simp] theorem joinNibbles_nibs (b : Byte) : joinNibbles (hiNib b) (loNib b) = b := by revert b; decide

@[simp] theorem hiByte_joinBytes (a b : Byte) : hiByte (joinBytes a b) = a := BitVec.extractLsb'_append_eq_left

@[simp] theorem loByte_joinBytes (a b : Byte) : loByte (joinBytes a b) = b := BitVec.extractLsb'_append_eq_right

@[simp] theorem joinBytes_bytes (w : Word) : joinBytes (hiByte w) (loByte w) = w := by
  apply BitVec.eq_of_getLsbD_eq
  intro i hi
  unfold joinBytes hiByte loByte
  rw [BitVec.getLsbD_append, BitVec.getLsbD_extractLsb', BitVec.getLsbD_extractLsb']
  by_cases h : i < 8
  · simp [h]
  · have h1 : i - 8 < 8 := by omega
    have h2 : 8 + (i - 8) = i := by omega
    simp [h, h1, h2]

@[simp] theorem joinAddr_parts (a : Addr) : joinAddr (a.extractLsb' 8 4) (a.extractLsb' 0 8) = a := by
  apply BitVec.eq_of_getLsbD_eq
  intro i hi
  unfold joinAddr
  rw [BitVec.getLsbD_append, BitVec.getLsbD_extractLsb', BitVec.getLsbD_extractLsb']
  by_cases h : i < 8
  · simp [h]
  · have h1 : i - 8 < 4 := by omega
    have h2 : 8 + (i - 8) = i := by omega
    simp [h, h1, h2]

@[simp] theorem joinAddr_hi (a : Nibble) (b : Byte) : (joinAddr a b).extractLsb' 8 4 = a :=
  BitVec.extractLsb'_append_eq_left

@[simp] theorem joinAddr_lo (a : Nibble) (b : Byte) : (joinAddr a b).extractLsb' 0 8 = b :=
  BitVec.extractLsb'_append_eq_right

/-- The two bytes of a joined word. -/
@[simp] theorem wordBytes_joinBytes (a b : Byte) : wordBytes (joinBytes a b) = [a, b] := by simp [wordBytes]

/-- A mask acts on the two bytes separately. -/
theorem joinBytes_and (a b c d : Byte) : joinBytes a b &&& joinBytes c d = joinBytes (a &&& c) (b &&& d) :=
  BitVec.and_append

/-- A mask acts on the two nibbles separately. -/
theorem joinNibbles_and (a b c d : Nibble) :
    joinNibbles a b &&& joinNibbles c d = joinNibbles (a &&& c) (b &&& d) := BitVec.and_append

/-- A joined word as a bitwise OR of its parts in place. -/
theorem joinBytes_eq_or (c d e f : Nibble) : joinBytes (joinNibbles c d) (joinNibbles e f) =
    (zext16 c <<< 12) ||| (zext16 d <<< 8) ||| (zext16 e <<< 4) ||| zext16 f := by
  apply BitVec.eq_of_getLsbD_eq
  intro i hi
  simp only [joinBytes, joinNibbles, BitVec.getLsbD_append, BitVec.getLsbD_or, BitVec.getLsbD_shiftLeft,
    BitVec.getLsbD_setWidth]
  interval_cases i <;> simp

/-- The rows of the opcode table are pairwise disjoint: where two masks agree the patterns differ (R75). -/
theorem opcodeTable_disjoint : opcodeTable.Pairwise (fun a b => a.pattern &&& b.mask ≠ b.pattern &&& a.mask) := by
  decide

end Sys2Proof
end

