-- ==== Sys2Proof/Laws/Memory.lean ====
section
/-! SUPPORT. Laws of memory: read after write, the frame of a write, and that every memory operation keeps the canonical
form. -/

namespace Sys2Proof.Machine

theorem maskAddr_eq (a : Word) : maskAddr a = a.toNat % 4096 := by
  simp only [maskAddr, BitVec.toNat_and]
  exact Nat.and_two_pow_sub_one_eq_mod a.toNat 12

theorem maskAddr_lt (a : Word) : maskAddr a < 4096 := by
  rw [maskAddr_eq]; omega

theorem maskAddr_add (base : Word) (k : Nat) : maskAddr (base + BitVec.ofNat 16 k) = (base.toNat + k) % 4096 := by
  rw [maskAddr_eq]; simp only [BitVec.toNat_add, BitVec.toNat_ofNat]; omega

/-- Two offsets of a block of at most 4096 bytes reach one address only when they are equal. -/
theorem maskAddr_add_inj (base : Word) {j k : Nat} (hj : j < 4096) (hk : k < 4096)
    (h : maskAddr (base + BitVec.ofNat 16 j) = maskAddr (base + BitVec.ofNat 16 k)) : j = k := by
  simp only [maskAddr_add] at h; omega

/-- A write leaves every other address as it was, whatever the memory. -/
theorem Memory.read_write_other (m : Memory) {a c : Nat} (b : Byte) (h : c ≠ a) : (m.write a b).read c = m.read c := by
  induction m with
  | nil => simp only [Memory.write]; split <;> simp [Memory.read, h]
  | cons e rest ih =>
    obtain ⟨k, v⟩ := e
    simp only [Memory.write]
    split
    · split <;> simp [Memory.read, h]
    · split
      · subst_vars
        split <;> simp [Memory.read, h]
      · simp only [Memory.read, ih]

/-- An address below every listed one reads as blank. -/
theorem Memory.read_of_wfFrom_lt {lo a : Nat} {m : Memory} (h : Memory.wfFrom lo m = true) (ha : a < lo) :
    m.read a = blankByte a := by
  induction m generalizing lo with
  | nil => rfl
  | cons e rest ih =>
    obtain ⟨k, v⟩ := e
    simp only [Memory.wfFrom, Bool.and_eq_true, decide_eq_true_eq] at h
    simp only [Memory.read]
    rw [if_neg (by omega), ih h.2 (by omega)]

theorem Memory.read_write_self_from {lo : Nat} {m : Memory} (h : Memory.wfFrom lo m = true) (a : Nat) (b : Byte) :
    (m.write a b).read a = b := by
  induction m generalizing lo with
  | nil => simp only [Memory.write]; split <;> simp_all [Memory.read]
  | cons e rest ih =>
    obtain ⟨k, v⟩ := e
    simp only [Memory.wfFrom, Bool.and_eq_true, decide_eq_true_eq] at h
    simp only [Memory.write]
    split
    · split
      · rename_i hlt hb
        simp only [Memory.read]
        rw [if_neg (by omega), Memory.read_of_wfFrom_lt h.2 (by omega), hb]
      · simp [Memory.read]
    · split
      · split
        · rename_i hb
          rw [Memory.read_of_wfFrom_lt h.2 (by omega), hb]
        · simp [Memory.read]
      · rename_i hk
        simp only [Memory.read]
        rw [if_neg hk, ih h.2]

/-- Read after write gives the value written, in a canonical memory. -/
theorem Memory.read_write_self {m : Memory} (h : m.wf = true) (a : Nat) (b : Byte) : (m.write a b).read a = b :=
  Memory.read_write_self_from h a b

theorem Memory.wfFrom_mono {lo lo' : Nat} {m : Memory} (h : Memory.wfFrom lo m = true) (hl : lo' ≤ lo) :
    Memory.wfFrom lo' m = true := by
  cases m with
  | nil => rfl
  | cons e rest =>
    simp only [Memory.wfFrom, Bool.and_eq_true, decide_eq_true_eq] at h ⊢
    exact ⟨⟨⟨by omega, h.1.1.2⟩, h.1.2⟩, h.2⟩

theorem Memory.wfFrom_write {lo a : Nat} {m : Memory} (h : Memory.wfFrom lo m = true) (hlo : lo ≤ a) (ha : a < 4096)
    (b : Byte) : Memory.wfFrom lo (m.write a b) = true := by
  induction m generalizing lo with
  | nil => simp only [Memory.write]; split <;> simp_all [Memory.wfFrom, Config.memSize]
  | cons e rest ih =>
    obtain ⟨k, v⟩ := e
    have h' := h
    simp only [Memory.wfFrom, Bool.and_eq_true, decide_eq_true_eq] at h
    simp only [Memory.write]
    split
    · split
      · exact h'
      · simp_all [Memory.wfFrom, Config.memSize]
    · split
      · subst_vars
        split
        · exact Memory.wfFrom_mono h.2 (by omega)
        · simp_all [Memory.wfFrom]
      · simp only [Memory.wfFrom, Bool.and_eq_true, decide_eq_true_eq]
        exact ⟨h.1, ih h.2 (by omega)⟩

/-- A write within 0x000..0xFFF keeps the canonical form. -/
theorem Memory.wf_write {m : Memory} (h : m.wf = true) {a : Nat} (ha : a < 4096) (b : Byte) : (m.write a b).wf = true :=
  Memory.wfFrom_write h (Nat.zero_le a) ha b

theorem Memory.wf_writeBytes {m : Memory} (h : m.wf = true) (bs : List Byte) {a : Nat} (ha : a + bs.length ≤ 4096) :
    (m.writeBytes a bs).wf = true := by
  induction bs generalizing m a with
  | nil => exact h
  | cons b bs ih =>
    simp only [List.length_cons] at ha
    exact ih (Memory.wf_write h (by omega) b) (by omega)

theorem Memory.wf_writeBlock {m : Memory} (h : m.wf = true) (base : Word) (f : Nat → Byte) (n : Nat) :
    (m.writeBlock base f n).wf = true := by
  induction n with
  | zero => exact h
  | succ n ih => exact Memory.wf_write ih (maskAddr_lt _) _

/-- Outside the bytes copied, `writeBytes` changes nothing. -/
theorem Memory.read_writeBytes_other (m : Memory) (bs : List Byte) {a c : Nat} (h : c < a ∨ a + bs.length ≤ c) :
    (m.writeBytes a bs).read c = m.read c := by
  induction bs generalizing m a with
  | nil => rfl
  | cons b bs ih =>
    simp only [List.length_cons] at h
    simp only [Memory.writeBytes]
    rw [ih _ (by omega), Memory.read_write_other _ _ (by omega)]

/-- Each byte copied by `writeBytes` is read back. -/
theorem Memory.read_writeBytes {m : Memory} (h : m.wf = true) (bs : List Byte) {a : Nat} (ha : a + bs.length ≤ 4096)
    {k : Nat} (hk : k < bs.length) : (m.writeBytes a bs).read (a + k) = bs[k] := by
  induction bs generalizing m a k with
  | nil => simp at hk
  | cons b bs ih =>
    simp only [List.length_cons] at ha hk
    simp only [Memory.writeBytes]
    cases k with
    | zero =>
      rw [Memory.read_writeBytes_other _ _ (by omega)]
      simpa using Memory.read_write_self h a b
    | succ k =>
      have ha' : a < 4096 := by omega
      have := ih (Memory.wf_write h ha' b) (a := a + 1) (by omega) (k := k) (by omega)
      simpa [Nat.add_assoc, Nat.add_comm 1 k] using this

/-- Outside the block, `writeBlock` changes nothing. -/
theorem Memory.read_writeBlock_other (m : Memory) (base : Word) (f : Nat → Byte) {n c : Nat}
    (h : ∀ k, k < n → c ≠ maskAddr (base + BitVec.ofNat 16 k)) : (m.writeBlock base f n).read c = m.read c := by
  induction n with
  | zero => rfl
  | succ n ih =>
    simp only [Memory.writeBlock]
    rw [Memory.read_write_other _ _ (h n (by omega)), ih fun k hk => h k (by omega)]

/-- Each byte of the block is read back. -/
theorem Memory.read_writeBlock {m : Memory} (h : m.wf = true) (base : Word) (f : Nat → Byte) {n k : Nat} (hn : n ≤ 4096)
    (hk : k < n) : (m.writeBlock base f n).read (maskAddr (base + BitVec.ofNat 16 k)) = f k := by
  induction n with
  | zero => omega
  | succ n ih =>
    simp only [Memory.writeBlock]
    by_cases hkn : k = n
    · subst hkn
      exact Memory.read_write_self (Memory.wf_writeBlock h base f k) _ _
    · rw [Memory.read_write_other, ih (by omega) (by omega)]
      exact fun he => hkn (maskAddr_add_inj base (by omega) (by omega) he)

/-- `hitsFont` says that some byte of the block lies below 0x050. -/
theorem hitsFont_iff (base : Word) (n : Nat) :
    hitsFont base n = true ↔ ∃ k, k < n ∧ maskAddr (base + BitVec.ofNat 16 k) < 0x050 := by
  simp only [hitsFont, List.any_eq_true, List.mem_range, decide_eq_true_eq]
  rfl

theorem hitsFont_false_iff (base : Word) (n : Nat) :
    hitsFont base n = false ↔ ∀ k, k < n → 0x050 ≤ maskAddr (base + BitVec.ofNat 16 k) := by
  rw [← Bool.not_eq_true, hitsFont_iff]
  simp

/-- A store that passes the font check leaves the font as it was (20_memory.md R54). -/
theorem Memory.read_writeBlock_font (m : Memory) (base : Word) (f : Nat → Byte) {n : Nat} (h : hitsFont base n = false)
    {a : Nat} (ha : a < 0x050) : (m.writeBlock base f n).read a = m.read a :=
  Memory.read_writeBlock_other m base f fun k hk he => by
    have := (hitsFont_false_iff base n).1 h k hk
    omega

theorem reset_mem_wf : State.reset.mem.wf = true := rfl

end Sys2Proof.Machine
end

