-- ==== Sys2Proof/Laws/State.lean ====
section
/-! SUPPORT. One lemma per field per update of State, true by rfl, so that no later proof unfolds a record update. -/

namespace Sys2Proof.Machine

variable (s : State)

@[simp] theorem State.setV_mem (r : Reg) (b : Byte) : (s.setV r b).mem = s.mem := rfl
@[simp] theorem State.setV_V (r : Reg) (b : Byte) : (s.setV r b).V = s.V.set r.val b r.isLt := rfl
@[simp] theorem State.setV_I (r : Reg) (b : Byte) : (s.setV r b).I = s.I := rfl
@[simp] theorem State.setV_PC (r : Reg) (b : Byte) : (s.setV r b).PC = s.PC := rfl
@[simp] theorem State.setV_S (r : Reg) (b : Byte) : (s.setV r b).S = s.S := rfl
@[simp] theorem State.setV_SP (r : Reg) (b : Byte) : (s.setV r b).SP = s.SP := rfl
@[simp] theorem State.setV_DT (r : Reg) (b : Byte) : (s.setV r b).DT = s.DT := rfl
@[simp] theorem State.setV_ST (r : Reg) (b : Byte) : (s.setV r b).ST = s.ST := rfl
@[simp] theorem State.setV_K (r : Reg) (b : Byte) : (s.setV r b).K = s.K := rfl
@[simp] theorem State.setV_FB (r : Reg) (b : Byte) : (s.setV r b).FB = s.FB := rfl
@[simp] theorem State.setV_mode (r : Reg) (b : Byte) : (s.setV r b).mode = s.mode := rfl
@[simp] theorem State.setV_events (r : Reg) (b : Byte) : (s.setV r b).events = s.events := rfl
@[simp] theorem State.setV_params (r : Reg) (b : Byte) : (s.setV r b).params = s.params := rfl
@[simp] theorem State.setV_randomFeed (r : Reg) (b : Byte) : (s.setV r b).randomFeed = s.randomFeed := rfl
@[simp] theorem State.setV_draws (r : Reg) (b : Byte) : (s.setV r b).draws = s.draws := rfl
@[simp] theorem State.setV_schedule (r : Reg) (b : Byte) : (s.setV r b).schedule = s.schedule := rfl

@[simp] theorem State.setPC_mem (a : Word) : (s.setPC a).mem = s.mem := rfl
@[simp] theorem State.setPC_V (a : Word) : (s.setPC a).V = s.V := rfl
@[simp] theorem State.setPC_I (a : Word) : (s.setPC a).I = s.I := rfl
@[simp] theorem State.setPC_PC (a : Word) : (s.setPC a).PC = a := rfl
@[simp] theorem State.setPC_S (a : Word) : (s.setPC a).S = s.S := rfl
@[simp] theorem State.setPC_SP (a : Word) : (s.setPC a).SP = s.SP := rfl
@[simp] theorem State.setPC_DT (a : Word) : (s.setPC a).DT = s.DT := rfl
@[simp] theorem State.setPC_ST (a : Word) : (s.setPC a).ST = s.ST := rfl
@[simp] theorem State.setPC_K (a : Word) : (s.setPC a).K = s.K := rfl
@[simp] theorem State.setPC_FB (a : Word) : (s.setPC a).FB = s.FB := rfl
@[simp] theorem State.setPC_mode (a : Word) : (s.setPC a).mode = s.mode := rfl
@[simp] theorem State.setPC_events (a : Word) : (s.setPC a).events = s.events := rfl
@[simp] theorem State.setPC_params (a : Word) : (s.setPC a).params = s.params := rfl
@[simp] theorem State.setPC_randomFeed (a : Word) : (s.setPC a).randomFeed = s.randomFeed := rfl
@[simp] theorem State.setPC_draws (a : Word) : (s.setPC a).draws = s.draws := rfl
@[simp] theorem State.setPC_schedule (a : Word) : (s.setPC a).schedule = s.schedule := rfl

@[simp] theorem State.advance_mem : (s.advance).mem = s.mem := rfl
@[simp] theorem State.advance_V : (s.advance).V = s.V := rfl
@[simp] theorem State.advance_I : (s.advance).I = s.I := rfl
@[simp] theorem State.advance_PC : (s.advance).PC = s.PC + 2#16 := rfl
@[simp] theorem State.advance_S : (s.advance).S = s.S := rfl
@[simp] theorem State.advance_SP : (s.advance).SP = s.SP := rfl
@[simp] theorem State.advance_DT : (s.advance).DT = s.DT := rfl
@[simp] theorem State.advance_ST : (s.advance).ST = s.ST := rfl
@[simp] theorem State.advance_K : (s.advance).K = s.K := rfl
@[simp] theorem State.advance_FB : (s.advance).FB = s.FB := rfl
@[simp] theorem State.advance_mode : (s.advance).mode = s.mode := rfl
@[simp] theorem State.advance_events : (s.advance).events = s.events := rfl
@[simp] theorem State.advance_params : (s.advance).params = s.params := rfl
@[simp] theorem State.advance_randomFeed : (s.advance).randomFeed = s.randomFeed := rfl
@[simp] theorem State.advance_draws : (s.advance).draws = s.draws := rfl
@[simp] theorem State.advance_schedule : (s.advance).schedule = s.schedule := rfl

@[simp] theorem State.skip_mem (c : Bool) : (s.skip c).mem = s.mem := rfl
@[simp] theorem State.skip_V (c : Bool) : (s.skip c).V = s.V := rfl
@[simp] theorem State.skip_I (c : Bool) : (s.skip c).I = s.I := rfl
@[simp] theorem State.skip_PC (c : Bool) : (s.skip c).PC = s.PC + if c then 4#16 else 2#16 := rfl
@[simp] theorem State.skip_S (c : Bool) : (s.skip c).S = s.S := rfl
@[simp] theorem State.skip_SP (c : Bool) : (s.skip c).SP = s.SP := rfl
@[simp] theorem State.skip_DT (c : Bool) : (s.skip c).DT = s.DT := rfl
@[simp] theorem State.skip_ST (c : Bool) : (s.skip c).ST = s.ST := rfl
@[simp] theorem State.skip_K (c : Bool) : (s.skip c).K = s.K := rfl
@[simp] theorem State.skip_FB (c : Bool) : (s.skip c).FB = s.FB := rfl
@[simp] theorem State.skip_mode (c : Bool) : (s.skip c).mode = s.mode := rfl
@[simp] theorem State.skip_events (c : Bool) : (s.skip c).events = s.events := rfl
@[simp] theorem State.skip_params (c : Bool) : (s.skip c).params = s.params := rfl
@[simp] theorem State.skip_randomFeed (c : Bool) : (s.skip c).randomFeed = s.randomFeed := rfl
@[simp] theorem State.skip_draws (c : Bool) : (s.skip c).draws = s.draws := rfl
@[simp] theorem State.skip_schedule (c : Bool) : (s.skip c).schedule = s.schedule := rfl

@[simp] theorem State.setI_mem (a : Word) : (s.setI a).mem = s.mem := rfl
@[simp] theorem State.setI_V (a : Word) : (s.setI a).V = s.V := rfl
@[simp] theorem State.setI_I (a : Word) : (s.setI a).I = a := rfl
@[simp] theorem State.setI_PC (a : Word) : (s.setI a).PC = s.PC := rfl
@[simp] theorem State.setI_S (a : Word) : (s.setI a).S = s.S := rfl
@[simp] theorem State.setI_SP (a : Word) : (s.setI a).SP = s.SP := rfl
@[simp] theorem State.setI_DT (a : Word) : (s.setI a).DT = s.DT := rfl
@[simp] theorem State.setI_ST (a : Word) : (s.setI a).ST = s.ST := rfl
@[simp] theorem State.setI_K (a : Word) : (s.setI a).K = s.K := rfl
@[simp] theorem State.setI_FB (a : Word) : (s.setI a).FB = s.FB := rfl
@[simp] theorem State.setI_mode (a : Word) : (s.setI a).mode = s.mode := rfl
@[simp] theorem State.setI_events (a : Word) : (s.setI a).events = s.events := rfl
@[simp] theorem State.setI_params (a : Word) : (s.setI a).params = s.params := rfl
@[simp] theorem State.setI_randomFeed (a : Word) : (s.setI a).randomFeed = s.randomFeed := rfl
@[simp] theorem State.setI_draws (a : Word) : (s.setI a).draws = s.draws := rfl
@[simp] theorem State.setI_schedule (a : Word) : (s.setI a).schedule = s.schedule := rfl

@[simp] theorem State.setDT_mem (b : Byte) : (s.setDT b).mem = s.mem := rfl
@[simp] theorem State.setDT_V (b : Byte) : (s.setDT b).V = s.V := rfl
@[simp] theorem State.setDT_I (b : Byte) : (s.setDT b).I = s.I := rfl
@[simp] theorem State.setDT_PC (b : Byte) : (s.setDT b).PC = s.PC := rfl
@[simp] theorem State.setDT_S (b : Byte) : (s.setDT b).S = s.S := rfl
@[simp] theorem State.setDT_SP (b : Byte) : (s.setDT b).SP = s.SP := rfl
@[simp] theorem State.setDT_DT (b : Byte) : (s.setDT b).DT = b := rfl
@[simp] theorem State.setDT_ST (b : Byte) : (s.setDT b).ST = s.ST := rfl
@[simp] theorem State.setDT_K (b : Byte) : (s.setDT b).K = s.K := rfl
@[simp] theorem State.setDT_FB (b : Byte) : (s.setDT b).FB = s.FB := rfl
@[simp] theorem State.setDT_mode (b : Byte) : (s.setDT b).mode = s.mode := rfl
@[simp] theorem State.setDT_events (b : Byte) : (s.setDT b).events = s.events := rfl
@[simp] theorem State.setDT_params (b : Byte) : (s.setDT b).params = s.params := rfl
@[simp] theorem State.setDT_randomFeed (b : Byte) : (s.setDT b).randomFeed = s.randomFeed := rfl
@[simp] theorem State.setDT_draws (b : Byte) : (s.setDT b).draws = s.draws := rfl
@[simp] theorem State.setDT_schedule (b : Byte) : (s.setDT b).schedule = s.schedule := rfl

@[simp] theorem State.setST_mem (b : Byte) : (s.setST b).mem = s.mem := rfl
@[simp] theorem State.setST_V (b : Byte) : (s.setST b).V = s.V := rfl
@[simp] theorem State.setST_I (b : Byte) : (s.setST b).I = s.I := rfl
@[simp] theorem State.setST_PC (b : Byte) : (s.setST b).PC = s.PC := rfl
@[simp] theorem State.setST_S (b : Byte) : (s.setST b).S = s.S := rfl
@[simp] theorem State.setST_SP (b : Byte) : (s.setST b).SP = s.SP := rfl
@[simp] theorem State.setST_DT (b : Byte) : (s.setST b).DT = s.DT := rfl
@[simp] theorem State.setST_ST (b : Byte) : (s.setST b).ST = b := rfl
@[simp] theorem State.setST_K (b : Byte) : (s.setST b).K = s.K := rfl
@[simp] theorem State.setST_FB (b : Byte) : (s.setST b).FB = s.FB := rfl
@[simp] theorem State.setST_mode (b : Byte) : (s.setST b).mode = s.mode := rfl
@[simp] theorem State.setST_events (b : Byte) : (s.setST b).events = s.events := rfl
@[simp] theorem State.setST_params (b : Byte) : (s.setST b).params = s.params := rfl
@[simp] theorem State.setST_randomFeed (b : Byte) : (s.setST b).randomFeed = s.randomFeed := rfl
@[simp] theorem State.setST_draws (b : Byte) : (s.setST b).draws = s.draws := rfl
@[simp] theorem State.setST_schedule (b : Byte) : (s.setST b).schedule = s.schedule := rfl

@[simp] theorem State.emit_mem (e : Event) : (s.emit e).mem = s.mem := rfl
@[simp] theorem State.emit_V (e : Event) : (s.emit e).V = s.V := rfl
@[simp] theorem State.emit_I (e : Event) : (s.emit e).I = s.I := rfl
@[simp] theorem State.emit_PC (e : Event) : (s.emit e).PC = s.PC := rfl
@[simp] theorem State.emit_S (e : Event) : (s.emit e).S = s.S := rfl
@[simp] theorem State.emit_SP (e : Event) : (s.emit e).SP = s.SP := rfl
@[simp] theorem State.emit_DT (e : Event) : (s.emit e).DT = s.DT := rfl
@[simp] theorem State.emit_ST (e : Event) : (s.emit e).ST = s.ST := rfl
@[simp] theorem State.emit_K (e : Event) : (s.emit e).K = s.K := rfl
@[simp] theorem State.emit_FB (e : Event) : (s.emit e).FB = s.FB := rfl
@[simp] theorem State.emit_mode (e : Event) : (s.emit e).mode = s.mode := rfl
@[simp] theorem State.emit_events (e : Event) : (s.emit e).events = s.events ++ [e] := rfl
@[simp] theorem State.emit_params (e : Event) : (s.emit e).params = s.params := rfl
@[simp] theorem State.emit_randomFeed (e : Event) : (s.emit e).randomFeed = s.randomFeed := rfl
@[simp] theorem State.emit_draws (e : Event) : (s.emit e).draws = s.draws := rfl
@[simp] theorem State.emit_schedule (e : Event) : (s.emit e).schedule = s.schedule := rfl

@[simp] theorem State.setMem_mem (m : Memory) : (s.setMem m).mem = m := rfl
@[simp] theorem State.setMem_V (m : Memory) : (s.setMem m).V = s.V := rfl
@[simp] theorem State.setMem_I (m : Memory) : (s.setMem m).I = s.I := rfl
@[simp] theorem State.setMem_PC (m : Memory) : (s.setMem m).PC = s.PC := rfl
@[simp] theorem State.setMem_S (m : Memory) : (s.setMem m).S = s.S := rfl
@[simp] theorem State.setMem_SP (m : Memory) : (s.setMem m).SP = s.SP := rfl
@[simp] theorem State.setMem_DT (m : Memory) : (s.setMem m).DT = s.DT := rfl
@[simp] theorem State.setMem_ST (m : Memory) : (s.setMem m).ST = s.ST := rfl
@[simp] theorem State.setMem_K (m : Memory) : (s.setMem m).K = s.K := rfl
@[simp] theorem State.setMem_FB (m : Memory) : (s.setMem m).FB = s.FB := rfl
@[simp] theorem State.setMem_mode (m : Memory) : (s.setMem m).mode = s.mode := rfl
@[simp] theorem State.setMem_events (m : Memory) : (s.setMem m).events = s.events := rfl
@[simp] theorem State.setMem_params (m : Memory) : (s.setMem m).params = s.params := rfl
@[simp] theorem State.setMem_randomFeed (m : Memory) : (s.setMem m).randomFeed = s.randomFeed := rfl
@[simp] theorem State.setMem_draws (m : Memory) : (s.setMem m).draws = s.draws := rfl
@[simp] theorem State.setMem_schedule (m : Memory) : (s.setMem m).schedule = s.schedule := rfl

@[simp] theorem State.setFB_mem (f : Vector Row 32) : (s.setFB f).mem = s.mem := rfl
@[simp] theorem State.setFB_V (f : Vector Row 32) : (s.setFB f).V = s.V := rfl
@[simp] theorem State.setFB_I (f : Vector Row 32) : (s.setFB f).I = s.I := rfl
@[simp] theorem State.setFB_PC (f : Vector Row 32) : (s.setFB f).PC = s.PC := rfl
@[simp] theorem State.setFB_S (f : Vector Row 32) : (s.setFB f).S = s.S := rfl
@[simp] theorem State.setFB_SP (f : Vector Row 32) : (s.setFB f).SP = s.SP := rfl
@[simp] theorem State.setFB_DT (f : Vector Row 32) : (s.setFB f).DT = s.DT := rfl
@[simp] theorem State.setFB_ST (f : Vector Row 32) : (s.setFB f).ST = s.ST := rfl
@[simp] theorem State.setFB_K (f : Vector Row 32) : (s.setFB f).K = s.K := rfl
@[simp] theorem State.setFB_FB (f : Vector Row 32) : (s.setFB f).FB = f := rfl
@[simp] theorem State.setFB_mode (f : Vector Row 32) : (s.setFB f).mode = s.mode := rfl
@[simp] theorem State.setFB_events (f : Vector Row 32) : (s.setFB f).events = s.events := rfl
@[simp] theorem State.setFB_params (f : Vector Row 32) : (s.setFB f).params = s.params := rfl
@[simp] theorem State.setFB_randomFeed (f : Vector Row 32) : (s.setFB f).randomFeed = s.randomFeed := rfl
@[simp] theorem State.setFB_draws (f : Vector Row 32) : (s.setFB f).draws = s.draws := rfl
@[simp] theorem State.setFB_schedule (f : Vector Row 32) : (s.setFB f).schedule = s.schedule := rfl

@[simp] theorem State.enterProgram_mem : (s.enterProgram).mem = s.mem := rfl
@[simp] theorem State.enterProgram_V : (s.enterProgram).V = s.V := rfl
@[simp] theorem State.enterProgram_I : (s.enterProgram).I = s.I := rfl
@[simp] theorem State.enterProgram_PC : (s.enterProgram).PC = Config.programBase := rfl
@[simp] theorem State.enterProgram_S : (s.enterProgram).S = s.S := rfl
@[simp] theorem State.enterProgram_SP : (s.enterProgram).SP = s.SP := rfl
@[simp] theorem State.enterProgram_DT : (s.enterProgram).DT = s.DT := rfl
@[simp] theorem State.enterProgram_ST : (s.enterProgram).ST = s.ST := rfl
@[simp] theorem State.enterProgram_K : (s.enterProgram).K = s.K := rfl
@[simp] theorem State.enterProgram_FB : (s.enterProgram).FB = s.FB := rfl
@[simp] theorem State.enterProgram_mode : (s.enterProgram).mode = .running := rfl
@[simp] theorem State.enterProgram_events : (s.enterProgram).events = s.events := rfl
@[simp] theorem State.enterProgram_params : (s.enterProgram).params = s.params := rfl
@[simp] theorem State.enterProgram_randomFeed : (s.enterProgram).randomFeed = s.randomFeed := rfl
@[simp] theorem State.enterProgram_draws : (s.enterProgram).draws = s.draws := rfl
@[simp] theorem State.enterProgram_schedule : (s.enterProgram).schedule = s.schedule := rfl

@[simp] theorem State.setVF_mem (b : Bool) : (s.setVF b).mem = s.mem := rfl
@[simp] theorem State.setVF_V (b : Bool) : (s.setVF b).V = s.V.set 15 (flagByte b) := rfl
@[simp] theorem State.setVF_I (b : Bool) : (s.setVF b).I = s.I := rfl
@[simp] theorem State.setVF_PC (b : Bool) : (s.setVF b).PC = s.PC := rfl
@[simp] theorem State.setVF_S (b : Bool) : (s.setVF b).S = s.S := rfl
@[simp] theorem State.setVF_SP (b : Bool) : (s.setVF b).SP = s.SP := rfl
@[simp] theorem State.setVF_DT (b : Bool) : (s.setVF b).DT = s.DT := rfl
@[simp] theorem State.setVF_ST (b : Bool) : (s.setVF b).ST = s.ST := rfl
@[simp] theorem State.setVF_K (b : Bool) : (s.setVF b).K = s.K := rfl
@[simp] theorem State.setVF_FB (b : Bool) : (s.setVF b).FB = s.FB := rfl
@[simp] theorem State.setVF_mode (b : Bool) : (s.setVF b).mode = s.mode := rfl
@[simp] theorem State.setVF_events (b : Bool) : (s.setVF b).events = s.events := rfl
@[simp] theorem State.setVF_params (b : Bool) : (s.setVF b).params = s.params := rfl
@[simp] theorem State.setVF_randomFeed (b : Bool) : (s.setVF b).randomFeed = s.randomFeed := rfl
@[simp] theorem State.setVF_draws (b : Bool) : (s.setVF b).draws = s.draws := rfl
@[simp] theorem State.setVF_schedule (b : Bool) : (s.setVF b).schedule = s.schedule := rfl

@[simp] theorem State.writeReg_mem (r : Reg) (b : Byte) : (s.writeReg r b).mem = s.mem := rfl
@[simp] theorem State.writeReg_V (r : Reg) (b : Byte) : (s.writeReg r b).V = s.V.set r.val b r.isLt := rfl
@[simp] theorem State.writeReg_I (r : Reg) (b : Byte) : (s.writeReg r b).I = s.I := rfl
@[simp] theorem State.writeReg_PC (r : Reg) (b : Byte) : (s.writeReg r b).PC = s.PC + 2#16 := rfl
@[simp] theorem State.writeReg_S (r : Reg) (b : Byte) : (s.writeReg r b).S = s.S := rfl
@[simp] theorem State.writeReg_SP (r : Reg) (b : Byte) : (s.writeReg r b).SP = s.SP := rfl
@[simp] theorem State.writeReg_DT (r : Reg) (b : Byte) : (s.writeReg r b).DT = s.DT := rfl
@[simp] theorem State.writeReg_ST (r : Reg) (b : Byte) : (s.writeReg r b).ST = s.ST := rfl
@[simp] theorem State.writeReg_K (r : Reg) (b : Byte) : (s.writeReg r b).K = s.K := rfl
@[simp] theorem State.writeReg_FB (r : Reg) (b : Byte) : (s.writeReg r b).FB = s.FB := rfl
@[simp] theorem State.writeReg_mode (r : Reg) (b : Byte) : (s.writeReg r b).mode = s.mode := rfl
@[simp] theorem State.writeReg_events (r : Reg) (b : Byte) : (s.writeReg r b).events = s.events := rfl
@[simp] theorem State.writeReg_params (r : Reg) (b : Byte) : (s.writeReg r b).params = s.params := rfl
@[simp] theorem State.writeReg_randomFeed (r : Reg) (b : Byte) : (s.writeReg r b).randomFeed = s.randomFeed := rfl
@[simp] theorem State.writeReg_draws (r : Reg) (b : Byte) : (s.writeReg r b).draws = s.draws := rfl
@[simp] theorem State.writeReg_schedule (r : Reg) (b : Byte) : (s.writeReg r b).schedule = s.schedule := rfl

@[simp] theorem State.writeFlagged_mem (r : Reg) (b : Byte) (f : Bool) : (s.writeFlagged r b f).mem = s.mem := rfl
@[simp] theorem State.writeFlagged_V (r : Reg) (b : Byte) (f : Bool) : (s.writeFlagged r b f).V = (s.V.set r.val b r.isLt).set 15 (flagByte f) := rfl
@[simp] theorem State.writeFlagged_I (r : Reg) (b : Byte) (f : Bool) : (s.writeFlagged r b f).I = s.I := rfl
@[simp] theorem State.writeFlagged_PC (r : Reg) (b : Byte) (f : Bool) : (s.writeFlagged r b f).PC = s.PC + 2#16 := rfl
@[simp] theorem State.writeFlagged_S (r : Reg) (b : Byte) (f : Bool) : (s.writeFlagged r b f).S = s.S := rfl
@[simp] theorem State.writeFlagged_SP (r : Reg) (b : Byte) (f : Bool) : (s.writeFlagged r b f).SP = s.SP := rfl
@[simp] theorem State.writeFlagged_DT (r : Reg) (b : Byte) (f : Bool) : (s.writeFlagged r b f).DT = s.DT := rfl
@[simp] theorem State.writeFlagged_ST (r : Reg) (b : Byte) (f : Bool) : (s.writeFlagged r b f).ST = s.ST := rfl
@[simp] theorem State.writeFlagged_K (r : Reg) (b : Byte) (f : Bool) : (s.writeFlagged r b f).K = s.K := rfl
@[simp] theorem State.writeFlagged_FB (r : Reg) (b : Byte) (f : Bool) : (s.writeFlagged r b f).FB = s.FB := rfl
@[simp] theorem State.writeFlagged_mode (r : Reg) (b : Byte) (f : Bool) : (s.writeFlagged r b f).mode = s.mode := rfl
@[simp] theorem State.writeFlagged_events (r : Reg) (b : Byte) (f : Bool) : (s.writeFlagged r b f).events = s.events := rfl
@[simp] theorem State.writeFlagged_params (r : Reg) (b : Byte) (f : Bool) : (s.writeFlagged r b f).params = s.params := rfl
@[simp] theorem State.writeFlagged_randomFeed (r : Reg) (b : Byte) (f : Bool) : (s.writeFlagged r b f).randomFeed = s.randomFeed := rfl
@[simp] theorem State.writeFlagged_draws (r : Reg) (b : Byte) (f : Bool) : (s.writeFlagged r b f).draws = s.draws := rfl
@[simp] theorem State.writeFlagged_schedule (r : Reg) (b : Byte) (f : Bool) : (s.writeFlagged r b f).schedule = s.schedule := rfl

@[simp] theorem State.timerTick_mem : (s.timerTick).mem = s.mem := rfl
@[simp] theorem State.timerTick_V : (s.timerTick).V = s.V := rfl
@[simp] theorem State.timerTick_I : (s.timerTick).I = s.I := rfl
@[simp] theorem State.timerTick_PC : (s.timerTick).PC = s.PC := rfl
@[simp] theorem State.timerTick_S : (s.timerTick).S = s.S := rfl
@[simp] theorem State.timerTick_SP : (s.timerTick).SP = s.SP := rfl
@[simp] theorem State.timerTick_DT : (s.timerTick).DT = countDown s.DT := rfl
@[simp] theorem State.timerTick_ST : (s.timerTick).ST = countDown s.ST := rfl
@[simp] theorem State.timerTick_K : (s.timerTick).K = s.K := rfl
@[simp] theorem State.timerTick_FB : (s.timerTick).FB = s.FB := rfl
@[simp] theorem State.timerTick_mode : (s.timerTick).mode = s.mode := rfl
@[simp] theorem State.timerTick_events : (s.timerTick).events = s.events := rfl
@[simp] theorem State.timerTick_params : (s.timerTick).params = s.params := rfl
@[simp] theorem State.timerTick_randomFeed : (s.timerTick).randomFeed = s.randomFeed := rfl
@[simp] theorem State.timerTick_draws : (s.timerTick).draws = s.draws := rfl
@[simp] theorem State.timerTick_schedule : (s.timerTick).schedule = s.schedule := rfl

end Sys2Proof.Machine
end

