-- ==== Sys2Proof/Laws/Ops.lean ====
section
/-! SUPPORT. For each shared operation, what it can do. -/

namespace Sys2Proof.Machine

theorem getD_of_lt {α : Type} {n : Nat} (v : Vector α n) {i : Nat} (h : i < n) (d : α) : v.getD i d = v[i] := by
  simp [Vector.getD, Array.getD, h]

@[simp] theorem State.getV_setV_self (s : State) (r : Reg) (b : Byte) : (s.setV r b).getV r = b := by
  simp [State.getV]

theorem State.getV_setV_other (s : State) {r q : Reg} (b : Byte) (h : q ≠ r) : (s.setV r b).getV q = s.getV q := by
  have : r.val ≠ q.val := fun e => h (Fin.ext e.symm)
  simp [State.getV, this]

/-- Push: refused exactly when the stack is full; otherwise the entry, the pointer, and nothing else. -/
theorem State.push_cases (s : State) (v : Word) :
    (s.SP.val = 16 ∧ s.push v = none) ∨
    ∃ (h : s.SP.val < 16), s.push v = some { s with S := s.S.set s.SP.val v h, SP := ⟨s.SP.val + 1, by omega⟩ } := by
  by_cases h : s.SP.val < 16
  · exact .inr ⟨h, by simp [State.push, h]⟩
  · exact .inl ⟨by omega, by simp [State.push, h]⟩

/-- Pop: refused exactly when the stack is empty; otherwise the top entry, the pointer, and nothing else. -/
theorem State.pop_cases (s : State) :
    (s.SP.val = 0 ∧ s.pop = none) ∨
    ∃ (_ : s.SP.val ≠ 0), s.pop = some (s.S[s.SP.val - 1]'(by omega), { s with SP := ⟨s.SP.val - 1, by omega⟩ }) := by
  by_cases h : s.SP.val = 0
  · exact .inl ⟨h, by simp [State.pop, h]⟩
  · exact .inr ⟨h, by simp [State.pop, h]⟩

/-- A draw takes the host's next byte, or a free byte; it changes nothing but the random port's own fields. -/
theorem State.drawByte_cases (s : State) :
    (∃ b rest, s.randomFeed = b :: rest ∧ s.drawByte = (b, { s with randomFeed := rest })) ∨
    (s.randomFeed = [] ∧ s.drawByte = (Config.freeByte s.draws, { s with draws := s.draws + 1 })) := by
  unfold State.drawByte
  split
  · rename_i b rest h
    exact .inl ⟨b, rest, h, rfl⟩
  · rename_i h
    exact .inr ⟨h, rfl⟩

/-- The block load: registers below `n` hold the block's bytes, the others are as before. -/
theorem getElem_loadBlock (m : Memory) (base : Word) (v : Vector Byte 16) (n : Nat) {i : Nat} (hi : i < 16) :
    (loadBlock m base v n)[i] = if i < n then m.read (maskAddr (base + BitVec.ofNat 16 i)) else v[i] := by
  induction n with
  | zero => simp [loadBlock]
  | succ n ih =>
    simp only [loadBlock, Vector.getElem_setIfInBounds hi]
    by_cases h : n = i
    · subst h; simp
    · rw [if_neg h, ih]
      by_cases h2 : i < n
      · rw [if_pos h2, if_pos (by omega)]
      · rw [if_neg h2, if_neg (by omega)]

/-- `lowestKey` finds nothing exactly when no key is pressed. -/
theorem lowestKey_eq_none_iff (keys : Word) : lowestKey keys = none ↔ keys = 0#16 := by
  constructor
  · intro h
    apply BitVec.eq_of_getLsbD_eq
    intro i hi
    simp only [lowestKey, List.find?_eq_none, List.mem_range] at h
    simpa using h i hi
  · rintro rfl; rfl

/-- `lowestKey` finds the smallest pressed key. -/
theorem lowestKey_eq_some {keys : Word} {k : Nat} (h : lowestKey keys = some k) :
    k < 16 ∧ keys.getLsbD k = true ∧ ∀ j, j < k → keys.getLsbD j = false := by
  have hm := List.mem_of_find?_eq_some h
  have hp := List.find?_some h
  refine ⟨by simpa using hm, hp, ?_⟩
  intro j hj
  unfold lowestKey at h
  rw [List.find?_range_eq_some] at h
  simpa using h.2.2 j hj

theorem countDown_toNat (b : Byte) : (countDown b).toNat = b.toNat - 1 := by
  simp only [countDown]
  split
  · rw [BitVec.toNat_sub]; have := b.isLt; simp; omega
  · simp; omega

theorem flagByte_toNat (b : Bool) : (flagByte b).toNat = if b then 1 else 0 := by cases b <;> rfl

/-- `V[k]` by number is the register's value. -/
theorem State.regNo_eq (s : State) (r : Reg) : s.regNo r.val = s.getV r := getD_of_lt _ r.isLt _

end Sys2Proof.Machine
end

