-- ==== Sys2Proof/Laws/Fetch.lean ====
section
/-! SUPPORT. What fetching, decoding and classifying can answer (20_memory.md R53; 30_encoding.md R80). -/

namespace Sys2Proof.Machine

theorem validPC_iff (pc : Word) : validPC pc = true ↔ Fetchable pc := by
  simp only [validPC, Fetchable, BitVec.getLsbD, Nat.testBit_zero, Bool.and_eq_true, decide_eq_true_eq,
    Bool.not_eq_true', decide_eq_false_iff_not]
  omega

/-- At a fetchable PC the bytes fetched are those at PC and PC + 1. -/
theorem State.fetchBytes_eq {s : State} (h : Fetchable s.PC) :
    s.fetchBytes = [s.mem.read s.PC.toNat, s.mem.read (s.PC.toNat + 1)] := by
  have h1 : maskAddr s.PC = s.PC.toNat := by rw [maskAddr_eq]; have := h.2; omega
  have h2 : maskAddr (s.PC + 1#16) = s.PC.toNat + 1 := by
    have := maskAddr_add s.PC 1
    have h' := h.2
    rw [Nat.mod_eq_of_lt (by omega)] at this
    exact this
  simp [State.fetchBytes, State.memRead, h1, h2]

/-- Two bytes decode to an instruction or are an unknown word; nothing is truncated. -/
theorem decode_pair_cases (hi lo : Byte) :
    (∃ i, decode [hi, lo] = .ok (i, [])) ∨ decode [hi, lo] = .error .unknownInstruction := by
  have key : ∀ f : Fields, (∃ i, classify f = .ok i) ∨ classify f = .error .unknownInstruction := by
    intro f
    unfold classify classify0 classify8 classifyE classifyF
    repeat' split
    all_goals first | exact .inl ⟨_, rfl⟩ | exact .inr rfl
  rcases key (decodeFields hi lo) with ⟨i, h⟩ | h
  · exact .inl ⟨i, by simp [decode, h]⟩
  · exact .inr (by simp [decode, h])

/-- Everything `nextInstr` can answer, in the order of 60_exceptions.md R214. -/
theorem State.nextInstr_cases (s : State) :
    (¬Fetchable s.PC ∧ s.nextInstr = .error .invalidProgramCounter) ∨
    (Fetchable s.PC ∧ decode s.fetchBytes = .error .unknownInstruction ∧ s.nextInstr = .error .unknownInstruction) ∨
    (Fetchable s.PC ∧ ∃ i, decode s.fetchBytes = .ok (i, []) ∧ s.nextInstr = .ok i) := by
  by_cases hv : validPC s.PC = true
  · have hf := (validPC_iff _).1 hv
    have hc := decode_pair_cases (s.memRead s.PC) (s.memRead (s.PC + 1#16))
    rcases hc with ⟨i, h⟩ | h
    · exact .inr (.inr ⟨hf, i, h, by simp [State.nextInstr, hv, State.fetchBytes, h]⟩)
    · exact .inr (.inl ⟨hf, h, by simp [State.nextInstr, hv, State.fetchBytes, h]⟩)
  · exact .inl ⟨fun hf => hv ((validPC_iff _).2 hf), by simp [State.nextInstr, hv]⟩

end Sys2Proof.Machine
end

