-- ==== Sys2Proof/Laws/Exec.lean ====
section
/-! SUPPORT. What each meaning can answer when it can raise, and the one-step inversion lemmas. -/

namespace Sys2Proof.Machine

@[simp] theorem raise_eq (cause : FatalCondition) (s : State) : raise cause s = .next { s with mode := .halted cause } := rfl

@[simp] theorem hold_eq (s : State) : hold s = .next s := rfl

theorem execRet_cases (s : State) :
    (s.SP.val = 0 ∧ execRet s = .next { s with mode := .halted .stackUnderflow }) ∨
    ∃ (_ : s.SP.val ≠ 0), execRet s =
      .next { s with SP := ⟨s.SP.val - 1, by omega⟩, PC := s.S[s.SP.val - 1]'(by omega) + 2#16 } := by
  rcases s.pop_cases with ⟨h, hp⟩ | ⟨h, hp⟩
  · exact .inl ⟨h, by simp [execRet, hp]⟩
  · exact .inr ⟨h, by simp [execRet, hp, State.setPC]⟩

theorem execCall_cases (nnn : Addr) (s : State) :
    (s.SP.val = 16 ∧ execCall nnn s = .next { s with mode := .halted .stackOverflow }) ∨
    ∃ (h : s.SP.val < 16), execCall nnn s =
      .next { s with S := s.S.set s.SP.val s.PC h, SP := ⟨s.SP.val + 1, by omega⟩, PC := zext16 nnn } := by
  rcases s.push_cases s.PC with ⟨h, hp⟩ | ⟨h, hp⟩
  · exact .inl ⟨h, by simp [execCall, hp]⟩
  · exact .inr ⟨h, by simp [execCall, hp, State.setPC]⟩

theorem execLdB_cases (x : Reg) (s : State) :
    (hitsFont s.I 3 = true ∧ execLdB x s = .next { s with mode := .halted .fontWrite }) ∨
    (hitsFont s.I 3 = false ∧
      execLdB x s = .next { s with mem := s.mem.writeBlock s.I (bcdDigit (s.getV x)) 3, PC := s.PC + 2#16 }) := by
  cases h : hitsFont s.I 3
  · exact .inr ⟨rfl, by simp [execLdB, h, State.setMem, State.advance, State.setPC]⟩
  · exact .inl ⟨rfl, by simp [execLdB, h]⟩

theorem execStoreRegs_cases (x : Reg) (s : State) :
    (hitsFont s.I (x.val + 1) = true ∧ execStoreRegs x s = .next { s with mode := .halted .fontWrite }) ∨
    (hitsFont s.I (x.val + 1) = false ∧ execStoreRegs x s = .next { s with
      mem := s.mem.writeBlock s.I s.regNo (x.val + 1), I := s.indexAfterBlock x, PC := s.PC + 2#16 }) := by
  cases h : hitsFont s.I (x.val + 1)
  · exact .inr ⟨rfl, by simp [execStoreRegs, h, State.setMem, State.setI, State.advance, State.setPC]⟩
  · exact .inl ⟨rfl, by simp [execStoreRegs, h]⟩

theorem execSkp_cases (x : Reg) (s : State) :
    ((s.getV x).toNat > 15 ∧ execSkp x s = .next { s with mode := .halted .keyIndexOutOfRange }) ∨
    ((s.getV x).toNat ≤ 15 ∧ execSkp x s = .next (s.skip (s.K.getLsbD (s.getV x).toNat))) := by
  by_cases h : (s.getV x).toNat > 15
  · exact .inl ⟨h, by simp [execSkp, h]⟩
  · exact .inr ⟨by omega, by simp [execSkp, h]⟩

theorem execSknp_cases (x : Reg) (s : State) :
    ((s.getV x).toNat > 15 ∧ execSknp x s = .next { s with mode := .halted .keyIndexOutOfRange }) ∨
    ((s.getV x).toNat ≤ 15 ∧ execSknp x s = .next (s.skip (!s.K.getLsbD (s.getV x).toNat))) := by
  by_cases h : (s.getV x).toNat > 15
  · exact .inl ⟨h, by simp [execSknp, h]⟩
  · exact .inr ⟨by omega, by simp [execSknp, h]⟩

theorem execLdVxK_cases (x : Reg) (s : State) :
    (s.K = 0#16 ∧ execLdVxK x s = .next s) ∨
    ∃ k, lowestKey s.K = some k ∧ execLdVxK x s = .next (s.writeReg x (trunc8 k)) := by
  cases h : lowestKey s.K with
  | none => exact .inl ⟨(lowestKey_eq_none_iff _).1 h, by simp [execLdVxK, h]⟩
  | some k => exact .inr ⟨k, rfl, by simp [execLdVxK, h]⟩

/-- Every instruction answers a next state, in every state: no meaning faults or refuses. -/
theorem exec_total (i : Instr) (s : State) : ∃ t, exec i s = .next t := by
  cases i with
  | ret => rcases execRet_cases s with ⟨_, h⟩ | ⟨_, h⟩ <;> exact ⟨_, h⟩
  | call a => rcases execCall_cases a s with ⟨_, h⟩ | ⟨_, h⟩ <;> exact ⟨_, h⟩
  | ldB x => rcases execLdB_cases x s with ⟨_, h⟩ | ⟨_, h⟩ <;> exact ⟨_, h⟩
  | storeRegs x => rcases execStoreRegs_cases x s with ⟨_, h⟩ | ⟨_, h⟩ <;> exact ⟨_, h⟩
  | skp x => rcases execSkp_cases x s with ⟨_, h⟩ | ⟨_, h⟩ <;> exact ⟨_, h⟩
  | sknp x => rcases execSknp_cases x s with ⟨_, h⟩ | ⟨_, h⟩ <;> exact ⟨_, h⟩
  | ldVxK x => rcases execLdVxK_cases x s with ⟨_, h⟩ | ⟨_, _, h⟩ <;> exact ⟨_, h⟩
  | _ => exact ⟨_, rfl⟩

/-- What one execution step can do: run the fetched instruction, or halt and change only `mode`. -/
theorem executionStep_cases (s : State) :
    (∃ i, Fetchable s.PC ∧ s.nextInstr = .ok i ∧ executionStep s = exec i s) ∨
    ∃ cause, s.nextInstr = .error cause ∧ executionStep s = .next { s with mode := .halted cause } := by
  rcases s.nextInstr_cases with ⟨_, h⟩ | ⟨_, _, h⟩ | ⟨hf, i, _, h⟩
  · exact .inr ⟨_, h, by simp [executionStep, h]⟩
  · exact .inr ⟨_, h, by simp [executionStep, h]⟩
  · exact .inl ⟨i, hf, h, by simp [executionStep, h]⟩

/-- A fetched instruction was fetched at a fetchable PC, from bytes that decode to it. -/
theorem State.nextInstr_ok {s : State} {i : Instr} (h : s.nextInstr = .ok i) :
    Fetchable s.PC ∧ decode s.fetchBytes = .ok (i, []) := by
  rcases s.nextInstr_cases with ⟨_, h'⟩ | ⟨_, _, h'⟩ | ⟨hf, j, hd, h'⟩ <;> rw [h] at h' <;> cases h'
  exact ⟨hf, hd⟩

/-- With no agent step listed, a running engine takes an execution step. -/
theorem step_of_running {s : State} (hm : s.mode = .running) (hs : s.schedule = []) : step s = executionStep s := by
  simp [step, turn, hs, freeRun, hm]

theorem executionStep_of_ok {s : State} {i : Instr} (h : s.nextInstr = .ok i) : executionStep s = exec i s := by
  simp [executionStep, h]

theorem executionStep_of_error {s : State} {cause : FatalCondition} (h : s.nextInstr = .error cause) :
    executionStep s = .next { s with mode := .halted cause } := by
  simp [executionStep, h]

theorem executionTick_of_running {s : State} (h : s.mode = .running) : executionTick s = executionStep s := by
  simp [executionTick, h]

theorem executionTick_of_not_running {s : State} (h : s.mode ≠ .running) : executionTick s = .next s := by
  cases hm : s.mode <;> simp_all [executionTick]

/-- A scheduled execution tick is delivered to the state whose schedule has moved on. -/
theorem step_of_tick {s : State} {tail : List AgentStep} (hs : s.schedule = .executionTick :: tail) :
    step s = executionTick { s with schedule := tail } := by
  simp [step, turn, hs, deliver]

/-- The engine's turn is one execution step, from the state whose schedule has moved on. -/
theorem step_of_engineTurn {s : State} (h : EngineTurn s) :
    step s = executionStep { s with schedule := s.schedule.tail } := by
  obtain ⟨hm, hs⟩ := h
  cases hc : s.schedule with
  | nil =>
    rw [step_of_running hm hc]
    congr 1
    ext1 <;> simp [hc]
  | cons a tail =>
    obtain rfl : a = .executionTick := by simpa [hc] using hs
    exact (step_of_tick hc).trans (executionTick_of_running (s := { s with schedule := tail }) hm)

theorem deliver_of_ok {a : AgentStep} (ha : a ≠ .executionTick) {s t : State} (h : s.port a = .ok t) :
    deliver a s = .next t := by
  cases a <;> simp_all [deliver]

theorem deliver_of_error {a : AgentStep} (ha : a ≠ .executionTick) {s : State} {e : PortReject}
    (h : s.port a = .error e) : deliver a s = .next s := by
  cases a <;> simp_all [deliver]

/-- What a step that answers a next state did: an execution step of a running engine (the schedule empty, or its head an
execution tick), a tick outside `Running`, or another agent's step, accepted or turned away. -/
theorem step_cases {s t : State} (h : step s = .next t) :
    (s.schedule = [] ∧ s.mode = .running ∧ executionStep s = .next t) ∨
    ∃ a tail, s.schedule = a :: tail ∧
      ((a = .executionTick ∧ s.mode = .running ∧ executionStep { s with schedule := tail } = .next t) ∨
       (a = .executionTick ∧ s.mode ≠ .running ∧ t = { s with schedule := tail }) ∨
       (a ≠ .executionTick ∧ (State.port { s with schedule := tail } a = .ok t ∨
         ∃ e, State.port { s with schedule := tail } a = .error e ∧ t = { s with schedule := tail }))) := by
  unfold step turn at h
  split at h
  · rename_i a tail hs
    refine .inr ⟨a, tail, hs, ?_⟩
    cases a with
    | executionTick =>
      simp only [deliver, executionTick] at h
      cases hm : s.mode with
      | running => simp only [hm] at h; exact .inl ⟨rfl, rfl, h⟩
      | unloaded => simp only [hm] at h; cases h; exact .inr (.inl ⟨rfl, by simp, rfl⟩)
      | halted c => simp only [hm] at h; cases h; exact .inr (.inl ⟨rfl, by simp, rfl⟩)
    | _ =>
      refine .inr (.inr ⟨by simp, ?_⟩)
      simp only [deliver] at h
      split at h
      · rename_i s' hp; cases h; exact .inl hp
      · rename_i e hp; cases h; exact .inr ⟨e, hp, rfl⟩
  · rename_i hs
    simp only [freeRun] at h
    cases hm : s.mode with
    | running => simp only [hm] at h; exact .inl ⟨hs, rfl, h⟩
    | unloaded => simp [hm] at h
    | halted c => simp [hm] at h

end Sys2Proof.Machine
end

