-- ==== Sys2Proof/Laws/Pattern.lean ====
section
/-! SUPPORT. The words of the patterns of 30_encoding.md R75 are the encoder's words. -/

namespace Sys2Proof.Machine

/-- A pattern with x and a byte, for any fixed high nibble. -/
theorem patternX_eq (code : Nibble) (x : Reg) (nn : Byte) : patternX (zext16 code <<< 12) x nn = wordXNN code x nn := by
  apply BitVec.eq_of_getLsbD_eq
  intro i hi
  simp only [patternX, wordXNN, joinBytes, joinNibbles, regNib, BitVec.getLsbD_append, BitVec.getLsbD_or,
    BitVec.getLsbD_shiftLeft, BitVec.getLsbD_setWidth, BitVec.getLsbD_ofNat]
  have hx : ∀ j, 4 ≤ j → x.val.testBit j = false := fun j hj =>
    Nat.testBit_lt_two_pow (lt_of_lt_of_le x.isLt (Nat.pow_le_pow_right (show 0 < 2 by decide) hj))
  interval_cases i <;> simp [hx]

/-- A pattern with x and y, for any fixed high nibble. -/
theorem patternXY_eq (code : Nibble) (x y : Reg) : patternXY (zext16 code <<< 12) x y = wordXYN code x y 0#4 := by
  apply BitVec.eq_of_getLsbD_eq
  intro i hi
  simp only [patternXY, wordXYN, joinBytes, joinNibbles, regNib, BitVec.getLsbD_append, BitVec.getLsbD_or,
    BitVec.getLsbD_shiftLeft, BitVec.getLsbD_setWidth, BitVec.getLsbD_ofNat]
  have hx : ∀ r : Reg, ∀ j, 4 ≤ j → r.val.testBit j = false := fun r j hj =>
    Nat.testBit_lt_two_pow (lt_of_lt_of_le r.isLt (Nat.pow_le_pow_right (show 0 < 2 by decide) hj))
  interval_cases i <;> simp [hx]

/-- A pattern with an address, for any fixed high nibble. -/
theorem patternNNN_eq (code : Nibble) (nnn : Addr) : patternNNN (zext16 code <<< 12) nnn = wordNNN code nnn := by
  apply BitVec.eq_of_getLsbD_eq
  intro i hi
  simp only [patternNNN, wordNNN, joinBytes, joinNibbles, BitVec.getLsbD_append, BitVec.getLsbD_or,
    BitVec.getLsbD_shiftLeft, BitVec.getLsbD_setWidth, BitVec.getLsbD_extractLsb']
  interval_cases i <;> simp

end Sys2Proof.Machine
end

