-- ==== Sys2Proof/Laws/PerInstr.lean ====
section
/-! SUPPORT. A statement about every instruction as syntax, with one lemma per constructor: its encoding lies in its row of
the opcode table (30_encoding.md R75). -/

namespace Sys2Proof.Laws.EncodesInItsRow

/-- Some row of the opcode table has the instruction's mnemonic, and the encoding matches the row. -/
def Statement (i : Instr) : Prop :=
  ∃ r ∈ opcodeTable, r.mnemonic = i.mnemonic ∧ encode i &&& r.mask = r.pattern

theorem nibble_and_ones (c : Nibble) : c &&& 0xF#4 = c := by revert c; decide

theorem byte_and_ones (b : Byte) : b &&& 0xFF#8 = b := by revert b; decide

/-- A mask on the code nibble, then one on the low byte. -/
theorem mask_code (c d : Nibble) (b m : Byte) :
    joinBytes (joinNibbles c d) b &&& joinBytes (joinNibbles 0xF#4 0#4) m = joinBytes (joinNibbles c 0#4) (b &&& m) := by
  rw [joinBytes_and, joinNibbles_and, nibble_and_ones, BitVec.and_zero]

/-- An `NNN` word keeps its code under the mask 0xF000. -/
theorem mask_nnn (c : Nibble) (a : Addr) : wordNNN c a &&& 0xF000#16 = joinBytes (joinNibbles c 0#4) 0#8 := by
  have := mask_code c (a.extractLsb' 8 4) (a.extractLsb' 0 8) 0#8
  rwa [BitVec.and_zero] at this

/-- An `XNN` word keeps its code under the mask 0xF000. -/
theorem mask_xnn (c : Nibble) (x : Reg) (b : Byte) : wordXNN c x b &&& 0xF000#16 = joinBytes (joinNibbles c 0#4) 0#8 := by
  have := mask_code c (regNib x) b 0#8
  rwa [BitVec.and_zero] at this

/-- An `Xnn` word keeps its code and low byte under the mask 0xF0FF. -/
theorem mask_xnn_sub (c : Nibble) (x : Reg) (b : Byte) : wordXNN c x b &&& 0xF0FF#16 = joinBytes (joinNibbles c 0#4) b := by
  have := mask_code c (regNib x) b 0xFF#8
  rwa [byte_and_ones] at this

/-- An `XYn` word keeps its code and `n` under the mask 0xF00F. -/
theorem mask_xyn (c : Nibble) (x y : Reg) (n : Nibble) :
    wordXYN c x y n &&& 0xF00F#16 = joinBytes (joinNibbles c 0#4) (joinNibbles 0#4 n) := by
  have := mask_code c (regNib x) (joinNibbles (regNib y) n) (joinNibbles 0#4 0xF#4)
  rwa [joinNibbles_and, nibble_and_ones, BitVec.and_zero] at this

/-- An `XYN` word keeps its code under the mask 0xF000. -/
theorem mask_xyn_code (c : Nibble) (x y : Reg) (n : Nibble) :
    wordXYN c x y n &&& 0xF000#16 = joinBytes (joinNibbles c 0#4) 0#8 := by
  have := mask_code c (regNib x) (joinNibbles (regNib y) n) 0#8
  rwa [BitVec.and_zero] at this

theorem cls : Statement .cls :=
  ⟨⟨"00E0", 0x00E0#16, 0xFFFF#16⟩, by decide, rfl, rfl⟩

theorem ret : Statement .ret :=
  ⟨⟨"00EE", 0x00EE#16, 0xFFFF#16⟩, by decide, rfl, rfl⟩

theorem jp (a : Addr) : Statement (.jp a) :=
  ⟨⟨"1NNN", 0x1000#16, 0xF000#16⟩, by decide, rfl, by rw [encode, mask_nnn]; rfl⟩

theorem call (a : Addr) : Statement (.call a) :=
  ⟨⟨"2NNN", 0x2000#16, 0xF000#16⟩, by decide, rfl, by rw [encode, mask_nnn]; rfl⟩

theorem seByte (x : Reg) (b : Byte) : Statement (.seByte x b) :=
  ⟨⟨"3XNN", 0x3000#16, 0xF000#16⟩, by decide, rfl, by rw [encode, mask_xnn]; rfl⟩

theorem sneByte (x : Reg) (b : Byte) : Statement (.sneByte x b) :=
  ⟨⟨"4XNN", 0x4000#16, 0xF000#16⟩, by decide, rfl, by rw [encode, mask_xnn]; rfl⟩

theorem seReg (x y : Reg) : Statement (.seReg x y) :=
  ⟨⟨"5XY0", 0x5000#16, 0xF00F#16⟩, by decide, rfl, by rw [encode, mask_xyn]; rfl⟩

theorem ldByte (x : Reg) (b : Byte) : Statement (.ldByte x b) :=
  ⟨⟨"6XNN", 0x6000#16, 0xF000#16⟩, by decide, rfl, by rw [encode, mask_xnn]; rfl⟩

theorem addByte (x : Reg) (b : Byte) : Statement (.addByte x b) :=
  ⟨⟨"7XNN", 0x7000#16, 0xF000#16⟩, by decide, rfl, by rw [encode, mask_xnn]; rfl⟩

theorem ldReg (x y : Reg) : Statement (.ldReg x y) :=
  ⟨⟨"8XY0", 0x8000#16, 0xF00F#16⟩, by decide, rfl, by rw [encode, mask_xyn]; rfl⟩

theorem orReg (x y : Reg) : Statement (.orReg x y) :=
  ⟨⟨"8XY1", 0x8001#16, 0xF00F#16⟩, by decide, rfl, by rw [encode, mask_xyn]; rfl⟩

theorem andReg (x y : Reg) : Statement (.andReg x y) :=
  ⟨⟨"8XY2", 0x8002#16, 0xF00F#16⟩, by decide, rfl, by rw [encode, mask_xyn]; rfl⟩

theorem xorReg (x y : Reg) : Statement (.xorReg x y) :=
  ⟨⟨"8XY3", 0x8003#16, 0xF00F#16⟩, by decide, rfl, by rw [encode, mask_xyn]; rfl⟩

theorem addReg (x y : Reg) : Statement (.addReg x y) :=
  ⟨⟨"8XY4", 0x8004#16, 0xF00F#16⟩, by decide, rfl, by rw [encode, mask_xyn]; rfl⟩

theorem sub (x y : Reg) : Statement (.sub x y) :=
  ⟨⟨"8XY5", 0x8005#16, 0xF00F#16⟩, by decide, rfl, by rw [encode, mask_xyn]; rfl⟩

theorem shr (x y : Reg) : Statement (.shr x y) :=
  ⟨⟨"8XY6", 0x8006#16, 0xF00F#16⟩, by decide, rfl, by rw [encode, mask_xyn]; rfl⟩

theorem subn (x y : Reg) : Statement (.subn x y) :=
  ⟨⟨"8XY7", 0x8007#16, 0xF00F#16⟩, by decide, rfl, by rw [encode, mask_xyn]; rfl⟩

theorem shl (x y : Reg) : Statement (.shl x y) :=
  ⟨⟨"8XYE", 0x800E#16, 0xF00F#16⟩, by decide, rfl, by rw [encode, mask_xyn]; rfl⟩

theorem sneReg (x y : Reg) : Statement (.sneReg x y) :=
  ⟨⟨"9XY0", 0x9000#16, 0xF00F#16⟩, by decide, rfl, by rw [encode, mask_xyn]; rfl⟩

theorem ldI (a : Addr) : Statement (.ldI a) :=
  ⟨⟨"ANNN", 0xA000#16, 0xF000#16⟩, by decide, rfl, by rw [encode, mask_nnn]; rfl⟩

theorem jpV0 (a : Addr) : Statement (.jpV0 a) :=
  ⟨⟨"BNNN", 0xB000#16, 0xF000#16⟩, by decide, rfl, by rw [encode, mask_nnn]; rfl⟩

theorem rnd (x : Reg) (b : Byte) : Statement (.rnd x b) :=
  ⟨⟨"CXNN", 0xC000#16, 0xF000#16⟩, by decide, rfl, by rw [encode, mask_xnn]; rfl⟩

theorem drw (x y : Reg) (n : Fin 16) : Statement (.drw x y n) :=
  ⟨⟨"DXYN", 0xD000#16, 0xF000#16⟩, by decide, rfl, by rw [encode, mask_xyn_code]; rfl⟩

theorem skp (x : Reg) : Statement (.skp x) :=
  ⟨⟨"EX9E", 0xE09E#16, 0xF0FF#16⟩, by decide, rfl, by rw [encode, mask_xnn_sub]; rfl⟩

theorem sknp (x : Reg) : Statement (.sknp x) :=
  ⟨⟨"EXA1", 0xE0A1#16, 0xF0FF#16⟩, by decide, rfl, by rw [encode, mask_xnn_sub]; rfl⟩

theorem ldVxDt (x : Reg) : Statement (.ldVxDt x) :=
  ⟨⟨"FX07", 0xF007#16, 0xF0FF#16⟩, by decide, rfl, by rw [encode, mask_xnn_sub]; rfl⟩

theorem ldVxK (x : Reg) : Statement (.ldVxK x) :=
  ⟨⟨"FX0A", 0xF00A#16, 0xF0FF#16⟩, by decide, rfl, by rw [encode, mask_xnn_sub]; rfl⟩

theorem ldDtVx (x : Reg) : Statement (.ldDtVx x) :=
  ⟨⟨"FX15", 0xF015#16, 0xF0FF#16⟩, by decide, rfl, by rw [encode, mask_xnn_sub]; rfl⟩

theorem ldStVx (x : Reg) : Statement (.ldStVx x) :=
  ⟨⟨"FX18", 0xF018#16, 0xF0FF#16⟩, by decide, rfl, by rw [encode, mask_xnn_sub]; rfl⟩

theorem addI (x : Reg) : Statement (.addI x) :=
  ⟨⟨"FX1E", 0xF01E#16, 0xF0FF#16⟩, by decide, rfl, by rw [encode, mask_xnn_sub]; rfl⟩

theorem ldF (x : Reg) : Statement (.ldF x) :=
  ⟨⟨"FX29", 0xF029#16, 0xF0FF#16⟩, by decide, rfl, by rw [encode, mask_xnn_sub]; rfl⟩

theorem ldB (x : Reg) : Statement (.ldB x) :=
  ⟨⟨"FX33", 0xF033#16, 0xF0FF#16⟩, by decide, rfl, by rw [encode, mask_xnn_sub]; rfl⟩

theorem storeRegs (x : Reg) : Statement (.storeRegs x) :=
  ⟨⟨"FX55", 0xF055#16, 0xF0FF#16⟩, by decide, rfl, by rw [encode, mask_xnn_sub]; rfl⟩

theorem loadRegs (x : Reg) : Statement (.loadRegs x) :=
  ⟨⟨"FX65", 0xF065#16, 0xF0FF#16⟩, by decide, rfl, by rw [encode, mask_xnn_sub]; rfl⟩

end Sys2Proof.Laws.EncodesInItsRow
end

