-- ==== Sys2Proof/Laws/Sprite.lean ====
section
/-! SUPPORT. What drawing does, bit by bit and row by row (40_display_sprite.md R102 to R104). -/

namespace Sys2Proof.Machine

/-- A bit of the shifted sprite byte, counted from the left end of the row. -/
theorem getMsbD_spriteByte (b : Byte) {p : Nat} (hp : p < 64) :
    (b.setWidth 64 <<< 56).getMsbD p = (decide (p < 8) && b.getLsbD (7 - p)) := by
  by_cases h : p < 8
  · have e : 64 - 1 - p - 56 = 7 - p := by omega
    have h1 : ¬ 63 - p < 56 := by omega
    have h2 : 7 - p < 64 := by omega
    simp [BitVec.getMsbD, BitVec.getLsbD_shiftLeft, h, h1, h2, e, hp]
    omega
  · have h1 : 64 - 1 - p < 56 := by omega
    simp [BitVec.getMsbD, h]
    omega

/-- Bit j of the sprite byte lands on column `(xo + 7 - j) mod 64`, and nothing else of the row mask is set (R102). -/
theorem rowMask_column (b : Byte) {xo c : Nat} (hx : xo < 64) (hc : c < 64) :
    (rowMask b xo).getLsbD (63 - c) = true ↔ ∃ j, j < 8 ∧ c = (xo + 7 - j) % 64 ∧ b.getLsbD j = true := by
  have hm : (rowMask b xo).getLsbD (63 - c) = (rowMask b xo).getMsbD c := by
    simp [BitVec.getMsbD, hc]
  have hp : (rowMask b xo).getMsbD c = (b.setWidth 64 <<< 56).getMsbD ((c + 64 - xo) % 64) := by
    simp only [rowMask, BitVec.getMsbD_rotateRight, hc, decide_true, Bool.true_and, Nat.mod_eq_of_lt hx]
    split
    · congr 1; omega
    · congr 1; omega
  rw [hm, hp, getMsbD_spriteByte b (Nat.mod_lt _ (by omega))]
  simp only [Bool.and_eq_true, decide_eq_true_eq]
  constructor
  · rintro ⟨h8, hb⟩
    exact ⟨_, by omega, by omega, hb⟩
  · rintro ⟨j, hj, hcj, hb⟩
    have : 7 - (c + 64 - xo) % 64 = j := by omega
    exact ⟨by omega, by rw [this]; exact hb⟩

/-- Rows after drawing: the only sprite row that lands on row `r` is `(r - yo) mod 32` (R102, R104). -/
theorem drawRows_row (m : Memory) (base : Word) (xo : Nat) {yo : Nat} (hy : yo < 32) (fb : Vector Row 32) {n : Nat}
    (hn : n ≤ 32) {r : Nat} (hr : r < 32) :
    (drawRows m base xo yo fb n).1[r] =
      if (r + 32 - yo) % 32 < n then
        fb[r] ^^^ rowMask (m.read (maskAddr (base + BitVec.ofNat 16 ((r + 32 - yo) % 32)))) xo
      else fb[r] := by
  induction n with
  | zero => simp [drawRows]
  | succ n ih =>
    have ih := ih (by omega)
    simp only [drawRows, drawRow, Vector.getElem_setIfInBounds hr]
    by_cases h : (yo + n) % 32 = r
    · have hk : (r + 32 - yo) % 32 = n := by omega
      rw [if_pos h, if_pos (by omega), hk]
      have hg : (drawRows m base xo yo fb n).1.getD ((yo + n) % 32) 0#64 = fb[r] := by
        rw [h, getD_of_lt _ hr, ih, if_neg (by omega)]
      rw [hg]
    · rw [if_neg h, ih]
      by_cases h2 : (r + 32 - yo) % 32 < n
      · rw [if_pos h2, if_pos (by omega)]
      · rw [if_neg h2, if_neg (by omega)]

/-- The collision flag: some sprite row meets a set bit of its framebuffer row (R103). -/
theorem drawRows_collides (m : Memory) (base : Word) (xo : Nat) {yo : Nat} (hy : yo < 32) (fb : Vector Row 32) {n : Nat}
    (hn : n ≤ 32) :
    (drawRows m base xo yo fb n).2 = true ↔ ∃ r, ∃ (hr : r < 32), (r + 32 - yo) % 32 < n ∧
      fb[r] &&& rowMask (m.read (maskAddr (base + BitVec.ofNat 16 ((r + 32 - yo) % 32)))) xo ≠ 0#64 := by
  induction n with
  | zero => simp [drawRows]
  | succ n ih =>
    have hr : (yo + n) % 32 < 32 := Nat.mod_lt _ (by omega)
    have hk : ((yo + n) % 32 + 32 - yo) % 32 = n := by omega
    have hg : (drawRows m base xo yo fb n).1.getD ((yo + n) % 32) 0#64 = fb[(yo + n) % 32] := by
      rw [getD_of_lt _ hr, drawRows_row m base xo hy fb (by omega) hr, if_neg (by omega)]
    simp only [drawRows, drawRow, Bool.or_eq_true, decide_eq_true_eq, hg, ih (by omega)]
    constructor
    · rintro (⟨r, hr', hlt, hne⟩ | hne)
      · exact ⟨r, hr', by omega, hne⟩
      · exact ⟨_, hr, by omega, by rw [hk]; exact hne⟩
    · rintro ⟨r, hr', hlt, hne⟩
      by_cases h : (r + 32 - yo) % 32 < n
      · exact .inl ⟨r, hr', h, hne⟩
      · have he : r = (yo + n) % 32 := by omega
        subst he
        rw [hk] at hne
        exact .inr hne

/-- Two rows share a set bit exactly when they share a lit column. -/
theorem row_and_ne_zero_iff (a b : Row) :
    a &&& b ≠ 0#64 ↔ ∃ c, c < 64 ∧ a.getLsbD (63 - c) = true ∧ b.getLsbD (63 - c) = true := by
  constructor
  · intro h
    by_contra hc
    simp only [not_exists, not_and] at hc
    apply h
    apply BitVec.eq_of_getLsbD_eq
    intro i hi
    have := hc (63 - i) (by omega)
    rw [show 63 - (63 - i) = i by omega] at this
    simp only [BitVec.getLsbD_and, BitVec.getLsbD_zero, Bool.and_eq_false_iff]
    by_cases ha : a.getLsbD i = true
    · exact .inr (by simpa using this ha)
    · exact .inl (by simpa using ha)
  · rintro ⟨c, hc, ha, hb⟩ h0
    have := congrArg (fun v => v.getLsbD (63 - c)) h0
    simp [ha, hb] at this

end Sys2Proof.Machine
end

