-- ==== Sys2Proof/Tests/Slice0.lean ====
section
/-! SUPPORT. Tests. Expected values are those of spec/95_test_vectors.md (the vector's name stands in the comment) or worked
out by hand from the rule named; then, for every obligation that has hypotheses, witnesses that meet them. -/

namespace Sys2Proof.Tests

open Sys2Proof Sys2Proof.Machine

/-! ## Well-formedness: an ill-formed view for each check -/

/-- The view of 0xD12F (E1). -/
def viewD12F : Fields := ⟨0xD#4, 0x1#4, 0x2#4, 0xF#4, 0x2F#8, 0x12F#12⟩

theorem test_wellFormed_accepts_a_view : viewD12F.wellFormed = true := by decide

theorem test_wellFormed_refuses_nnn : { viewD12F with nnn := 0x12E#12 }.nnnAgrees = false ∧
    { viewD12F with nnn := 0x12E#12 }.wellFormed = false := by decide

theorem test_wellFormed_refuses_nn :
    { viewD12F with n := 0xE#4 }.nnAgrees = false ∧ { viewD12F with n := 0xE#4 }.nnnAgrees = true ∧
    { viewD12F with n := 0xE#4 }.wellFormed = false := by decide

theorem test_instr_wellFormed : (Instr.drw 15 15 15).wellFormed = true ∧ (Instr.jp 0xFFF#12).wellFormed = true := by decide

/-! ## Decoding: a word of every row, written out from 30_encoding.md R75 and R84 -/

theorem test_decode_fields : decodeFields 0xD1#8 0x2F#8 = viewD12F := by decide

theorem test_decode_display : decodeWord 0x00E0#16 = some .cls ∧ decodeWord 0xD12F#16 = some (.drw 1 2 15) := by decide

theorem test_decode_control : decodeWord 0x00EE#16 = some .ret ∧ decodeWord 0x1ABC#16 = some (.jp 0xABC#12) ∧
    decodeWord 0x2300#16 = some (.call 0x300#12) ∧ decodeWord 0x3312#16 = some (.seByte 3 0x12#8) ∧
    decodeWord 0x4F00#16 = some (.sneByte 15 0x00#8) ∧ decodeWord 0x5120#16 = some (.seReg 1 2) ∧
    decodeWord 0x9120#16 = some (.sneReg 1 2) ∧ decodeWord 0xB500#16 = some (.jpV0 0x500#12) := by decide

theorem test_decode_alu : decodeWord 0x6A7F#16 = some (.ldByte 10 0x7F#8) ∧ decodeWord 0x7001#16 = some (.addByte 0 0x01#8) ∧
    decodeWord 0x8120#16 = some (.ldReg 1 2) ∧ decodeWord 0x8121#16 = some (.orReg 1 2) ∧
    decodeWord 0x8122#16 = some (.andReg 1 2) ∧ decodeWord 0x8123#16 = some (.xorReg 1 2) ∧
    decodeWord 0x8F14#16 = some (.addReg 15 1) ∧ decodeWord 0x8125#16 = some (.sub 1 2) ∧
    decodeWord 0x8126#16 = some (.shr 1 2) ∧ decodeWord 0x8127#16 = some (.subn 1 2) ∧
    decodeWord 0x812E#16 = some (.shl 1 2) ∧ decodeWord 0xC30F#16 = some (.rnd 3 0x0F#8) := by decide

theorem test_decode_index : decodeWord 0xA2F0#16 = some (.ldI 0x2F0#12) ∧ decodeWord 0xF21E#16 = some (.addI 2) ∧
    decodeWord 0xF329#16 = some (.ldF 3) ∧ decodeWord 0xF433#16 = some (.ldB 4) ∧
    decodeWord 0xF255#16 = some (.storeRegs 2) ∧ decodeWord 0xFF65#16 = some (.loadRegs 15) := by decide

theorem test_decode_keys : decodeWord 0xE19E#16 = some (.skp 1) ∧ decodeWord 0xE1A1#16 = some (.sknp 1) ∧
    decodeWord 0xF307#16 = some (.ldVxDt 3) ∧ decodeWord 0xF40A#16 = some (.ldVxK 4) ∧
    decodeWord 0xF515#16 = some (.ldDtVx 5) ∧ decodeWord 0xF618#16 = some (.ldStVx 6) := by decide

/-- E2, E4, E6 to E9, E11, E13. -/
theorem test_decode_unlisted : ([0x0000#16, 0x00E1#16, 0x0123#16, 0x5121#16, 0x912F#16, 0x8008#16, 0x8009#16, 0x800A#16,
    0x800B#16, 0x800C#16, 0x800D#16, 0x800F#16, 0xE09F#16, 0xE000#16, 0xF000#16, 0xF008#16, 0xF0FF#16, 0xF075#16,
    0xF085#16] : List Word).all (fun w => decodeWord w == none) = true := by decide

/-- Bytes are laid out big-endian: bit 0 of the table's number is the low bit of the second byte. -/
theorem test_decodeTableWord : decodeTableWord 16 0x2300 = some (.call 0x300#12) ∧ decodeTableWord 16 0x0023 = none := by decide

theorem test_decode_truncated : decode [0xD1#8] = .error .truncated := by rfl

/-! ## One step of each instruction -/

/-- A running machine at 0x200, everything else as reset leaves it. -/
def start : State := { State.reset with mode := .running, PC := 0x200#16 }

/-- `start` with two registers set. -/
def regs (a : Reg) (va : Byte) (b : Reg) (vb : Byte) : State := (start.setV a va).setV b vb

/-- `start` with I and the byte there. -/
def sprite (i : Word) (b : Byte) : State := { start with I := i, mem := Memory.write [] (maskAddr i) b }

/-- The state after one step that runs a word. -/
def after (w : Nat) (s : State) : Option State :=
  match step (s.withFetchWord 16 w) with
  | .next t => some t
  | .fault _ => none
  | .refused _ => none

/-- After a step: V[x], VF and PC. -/
def vfpc (x : Reg) (w : Nat) (s : State) : Option (Byte × Byte × Word) :=
  (after w s).map fun t => (t.getV x, t.getV 15, t.PC)

/-- After a step: PC and mode. -/
def pcMode (w : Nat) (s : State) : Option (Word × Mode) := (after w s).map fun t => (t.PC, t.mode)

/-- After a step: I, VF and PC. -/
def ivfpc (w : Nat) (s : State) : Option (Word × Byte × Word) := (after w s).map fun t => (t.I, t.getV 15, t.PC)

/-- D1 -/
theorem test_00E0 : (after 0x00E0 { (start.setV 15 0x55#8) with FB := Vector.replicate 32 0xF0F0#64 }).map
    (fun t => (t.FB, t.getV 15, t.events, t.PC)) =
    some (Vector.replicate 32 0#64, 0x55#8, [Event.displayUpdate], 0x202#16) := by decide

/-- B5 -/
theorem test_00EE : (after 0x00EE { start with PC := 0x300#16, SP := 2, S := start.S.set 1 0x250#16 }).map
    (fun t => (t.SP, t.PC, t.S[1])) = some (1, 0x252#16, 0x250#16) := by decide

/-- B6 -/
theorem test_00EE_underflow : pcMode 0x00EE { start with PC := 0x300#16 } =
    some (0x300#16, .halted .stackUnderflow) := by decide

/-- B1 -/
theorem test_1NNN : pcMode 0x1200 { start with PC := 0x204#16 } = some (0x200#16, .running) := by decide

/-- B3 -/
theorem test_2NNN : (after 0x2400 { start with SP := 3 }).map (fun t => (t.S[3], t.SP, t.PC)) =
    some (0x200#16, 4, 0x400#16) := by decide

/-- B4 -/
theorem test_2NNN_overflow : (after 0x2400 { start with SP := 16 }).map (fun t => (t.S, t.SP, t.PC, t.mode)) =
    some (start.S, 16, 0x200#16, .halted .stackOverflow) := by decide

/-- B8 -/
theorem test_3XNN : pcMode 0x3312 (start.setV 3 0x12#8) = some (0x204#16, .running) ∧
    pcMode 0x3313 (start.setV 3 0x12#8) = some (0x202#16, .running) := by decide

/-- B9 -/
theorem test_4XNN : pcMode 0x4312 (start.setV 3 0x12#8) = some (0x202#16, .running) ∧
    pcMode 0x4313 (start.setV 3 0x12#8) = some (0x204#16, .running) := by decide

/-- B10, and its other side -/
theorem test_5XY0 : pcMode 0x5120 (regs 1 0x07#8 2 0x07#8) = some (0x204#16, .running) ∧
    pcMode 0x5120 (regs 1 0x07#8 2 0x08#8) = some (0x202#16, .running) := by decide

/-- B12 -/
theorem test_9XY0 : pcMode 0x9120 (regs 1 0x07#8 2 0x08#8) = some (0x204#16, .running) ∧
    pcMode 0x9110 (regs 1 0x07#8 2 0x08#8) = some (0x202#16, .running) := by decide

/-- B18 -/
theorem test_BNNN : pcMode 0xB500 (regs 0 0x02#8 5 0x40#8) = some (0x502#16, .running) := by decide

/-- B16 -/
theorem test_BNNN_unmasked : pcMode 0xBFFF (start.setV 0 0xFF#8) = some (0x10FE#16, .running) := by decide

/-- A1 -/
theorem test_6XNN : vfpc 10 0x6A7F start = some (0x7F#8, 0x00#8, 0x202#16) := by decide

/-- A2 -/
theorem test_7XNN : vfpc 0 0x7001 (regs 0 0xFF#8 15 0x55#8) = some (0x00#8, 0x55#8, 0x202#16) := by decide

/-- A26 -/
theorem test_8XY0 : vfpc 0 0x8010 (start.setV 1 0x33#8) = some (0x33#8, 0x00#8, 0x202#16) := by decide

/-- A23 -/
theorem test_8XY1 : vfpc 0 0x8011 ((regs 0 0x0F#8 1 0xF0#8).setV 15 0x55#8) = some (0xFF#8, 0x55#8, 0x202#16) := by decide

/-- A24 -/
theorem test_8XY2 : vfpc 0 0x8012 ((regs 0 0x3C#8 1 0x0F#8).setV 15 0x55#8) = some (0x0C#8, 0x55#8, 0x202#16) := by decide

/-- A25 -/
theorem test_8XY3 : vfpc 0 0x8003 (regs 0 0x3C#8 15 0x55#8) = some (0x00#8, 0x55#8, 0x202#16) := by decide

/-- A4, A5 -/
theorem test_8XY4 : vfpc 0 0x8014 (regs 0 0x80#8 1 0x80#8) = some (0x00#8, 0x01#8, 0x202#16) ∧
    vfpc 0 0x8014 (regs 0 0x7F#8 1 0x80#8) = some (0xFF#8, 0x00#8, 0x202#16) := by decide

/-- A7 -/
theorem test_8XY4_flag_wins : vfpc 15 0x8F14 (regs 15 0xFF#8 1 0x01#8) = some (0x01#8, 0x01#8, 0x202#16) := by decide

/-- A9, A10 -/
theorem test_8XY5 : vfpc 0 0x8015 (regs 0 0x05#8 1 0x03#8) = some (0x02#8, 0x01#8, 0x202#16) ∧
    vfpc 0 0x8015 (regs 0 0x03#8 1 0x05#8) = some (0xFE#8, 0x00#8, 0x202#16) := by decide

/-- A state with one `SUB_FLAG_RULE`. -/
def withSubFlag (rule : Config.SubFlagRule) (s : State) : State := { s with params := { s.params with subFlag := rule } }

/-- A11, A12 -/
theorem test_8XY5_rules :
    [Config.SubFlagRule.notBorrow, .notBorrowStrict, .borrow].map
      (fun rule => (vfpc 0 0x8015 (withSubFlag rule (regs 0 0x07#8 1 0x07#8)),
        vfpc 0 0x8015 (withSubFlag rule (regs 0 0x00#8 1 0x01#8)))) =
    [(some (0x00#8, 0x01#8, 0x202#16), some (0xFF#8, 0x00#8, 0x202#16)),
     (some (0x00#8, 0x00#8, 0x202#16), some (0xFF#8, 0x00#8, 0x202#16)),
     (some (0x00#8, 0x00#8, 0x202#16), some (0xFF#8, 0x01#8, 0x202#16))] := by decide

/-- A state with `SHIFT_SOURCE = VY`. -/
def shiftVy (s : State) : State := { s with params := { s.params with shiftSource := .vy } }

/-- A16, A17 -/
theorem test_8XY6 : vfpc 0 0x8006 (start.setV 0 0x01#8) = some (0x00#8, 0x01#8, 0x202#16) ∧
    vfpc 0 0x8006 (start.setV 0 0x80#8) = some (0x40#8, 0x00#8, 0x202#16) := by decide

/-- A20 -/
theorem test_8XY6_source : vfpc 0 0x8016 (regs 0 0xFF#8 1 0x02#8) = some (0x7F#8, 0x01#8, 0x202#16) ∧
    vfpc 0 0x8016 (shiftVy (regs 0 0xFF#8 1 0x02#8)) = some (0x01#8, 0x00#8, 0x202#16) := by decide

/-- A13, A14 -/
theorem test_8XY7 : vfpc 0 0x8017 (regs 0 0x03#8 1 0x05#8) = some (0x02#8, 0x01#8, 0x202#16) ∧
    vfpc 0 0x8017 (regs 0 0x05#8 1 0x03#8) = some (0xFE#8, 0x00#8, 0x202#16) := by decide

/-- A18, A19 -/
theorem test_8XYE : vfpc 0 0x800E (start.setV 0 0x80#8) = some (0x00#8, 0x01#8, 0x202#16) ∧
    vfpc 0 0x800E (start.setV 0 0x7F#8) = some (0xFE#8, 0x00#8, 0x202#16) := by decide

/-- A21 -/
theorem test_8XYE_source : vfpc 0 0x801E (regs 0 0x01#8 1 0x81#8) = some (0x02#8, 0x00#8, 0x202#16) ∧
    vfpc 0 0x801E (shiftVy (regs 0 0x01#8 1 0x81#8)) = some (0x02#8, 0x01#8, 0x202#16) := by decide

/-- A29 -/
theorem test_CXNN : vfpc 3 0xC30F { start with randomFeed := [0xA7#8] } = some (0x07#8, 0x00#8, 0x202#16) := by decide

/-- M1 -/
theorem test_ANNN : ivfpc 0xA2F0 start = some (0x2F0#16, 0x00#8, 0x202#16) := by decide

/-- M2, M3 -/
theorem test_FX1E : ivfpc 0xF21E { (regs 2 0x10#8 15 0x55#8) with I := 0xFF8#16 } = some (0x1008#16, 0x55#8, 0x202#16) ∧
    ivfpc 0xF01E { (start.setV 0 0x01#8) with I := 0xFFFF#16 } = some (0x0000#16, 0x00#8, 0x202#16) := by decide

/-- M5, M6 -/
theorem test_FX29 : ivfpc 0xF029 (start.setV 0 0x1A#8) = some (0x32#16, 0x00#8, 0x202#16) ∧
    ivfpc 0xF029 (start.setV 0 0xFF#8) = some (0x4B#16, 0x00#8, 0x202#16) := by decide

/-- M7 -/
theorem test_FX33 : (after 0xF033 { (start.setV 0 0xFE#8) with I := 0x300#16 }).map
    (fun t => ([0x2FF, 0x300, 0x301, 0x302, 0x303].map t.mem.read, t.I, t.PC)) =
    some ([0x00#8, 0x02#8, 0x05#8, 0x04#8, 0x00#8], 0x300#16, 0x202#16) := by decide

/-- M12 -/
theorem test_FX33_font : (after 0xF033 { (start.setV 0 0xFE#8) with I := 0xFFE#16 }).map
    (fun t => ([0xFFE, 0xFFF, 0x000].map t.mem.read, t.PC, t.mode)) =
    some ([0x00#8, 0x00#8, 0xF0#8], 0x200#16, .halted .fontWrite) := by decide

/-- A state with V0, V1, V2 = 1, 2, 3, I = 0x400 and one `LOADSTORE_INDEX_MODE`. -/
def three (mode : Config.IndexMode) : State :=
  { ((regs 0 0x01#8 1 0x02#8).setV 2 0x03#8) with I := 0x400#16, params := { launchParams with indexMode := mode } }

/-- M15 -/
theorem test_FX55 : [Config.IndexMode.unchanged, .incrementX1, .incrementX].map (fun mode =>
    (after 0xF255 (three mode)).map fun t => ([0x400, 0x401, 0x402, 0x403].map t.mem.read, t.I)) =
    [some ([0x01#8, 0x02#8, 0x03#8, 0x00#8], 0x400#16), some ([0x01#8, 0x02#8, 0x03#8, 0x00#8], 0x403#16),
     some ([0x01#8, 0x02#8, 0x03#8, 0x00#8], 0x402#16)] := by decide

/-- M17 -/
theorem test_FX55_font : pcMode 0xFF55 { start with I := 0xFF8#16 } = some (0x200#16, .halted .fontWrite) := by decide

/-- M18 -/
theorem test_FX65 : (after 0xF265 { start with
    mem := Memory.writeBytes [] 0x300 [0x02#8, 0x05#8, 0x04#8], I := 0x300#16 }).map
    (fun t => (t.getV 0, t.getV 1, t.getV 2, t.getV 3, t.I, t.PC)) =
    some (0x02#8, 0x05#8, 0x04#8, 0x00#8, 0x300#16, 0x202#16) := by decide

/-- M19 -/
theorem test_FX65_wraps : (after 0xF165 (sprite 0xFFF#16 0x77#8)).map (fun t => (t.getV 0, t.getV 1, t.PC)) =
    some (0x77#8, 0xF0#8, 0x202#16) := by decide

/-- D4 and D8: the bit order with wrap, and a collision. -/
theorem test_DXYN : (after 0xD011 ((sprite 0x300#16 0x81#8).setV 0 0x3A#8)).map (fun t => (t.FB[0], t.getV 15, t.events)) =
      some (0x4000000000000020#64, 0x00#8, [Event.displayUpdate]) ∧
    (after 0xD011 { (sprite 0x300#16 0xC0#8) with FB := start.FB.set 0 0x8000000000000000#64 }).map
      (fun t => (t.FB[0], t.getV 15, t.PC)) = some (0x4000000000000000#64, 0x01#8, 0x202#16) := by decide

/-- D13: the address of row 1 wraps to the font; rows stack downwards. -/
theorem test_DXYN_rows : (after 0xD012 (sprite 0xFFF#16 0x80#8)).map (fun t => (t.FB[0], t.FB[1], t.FB[2], t.getV 15)) =
    some (0x8000000000000000#64, 0xF000000000000000#64, 0#64, 0x00#8) := by decide

/-- K1, K2 -/
theorem test_EX9E : pcMode 0xE19E { (start.setV 1 0x05#8) with K := 0x0020#16 } = some (0x204#16, .running) ∧
    pcMode 0xE19E (start.setV 1 0x05#8) = some (0x202#16, .running) := by decide

/-- K3, K4 -/
theorem test_EXA1 : pcMode 0xE1A1 { (start.setV 1 0x05#8) with K := 0x0020#16 } = some (0x202#16, .running) ∧
    pcMode 0xE1A1 (start.setV 1 0x05#8) = some (0x204#16, .running) := by decide

/-- K5 -/
theorem test_key_index : pcMode 0xE19E (start.setV 1 0x10#8) = some (0x200#16, .halted .keyIndexOutOfRange) ∧
    pcMode 0xE1A1 (start.setV 1 0x10#8) = some (0x200#16, .halted .keyIndexOutOfRange) := by decide

/-- K10 -/
theorem test_FX07 : vfpc 3 0xF307 { start with DT := 0x2A#8 } = some (0x2A#8, 0x00#8, 0x202#16) := by decide

/-- K7, K9 -/
theorem test_FX0A : vfpc 4 0xF40A { start with K := 0x0028#16 } = some (0x03#8, 0x00#8, 0x202#16) ∧
    vfpc 15 0xFF0A { start with K := 0x8000#16 } = some (0x0F#8, 0x0F#8, 0x202#16) := by decide

/-- K8: the hold changes nothing. -/
theorem test_FX0A_holds : after 0xF40A start = some (start.withFetchWord 16 0xF40A) := by decide

/-- K11 -/
theorem test_FX15 : (after 0xF015 (start.setV 0 0x0A#8)).map (fun t => (t.DT, t.ST, t.PC)) =
    some (0x0A#8, 0x00#8, 0x202#16) := by decide

/-- K12, K13 -/
theorem test_FX18 : (after 0xF418 (start.setV 4 0x1E#8)).map (fun t => (t.ST, t.DT, t.events)) =
      some (0x1E#8, 0x00#8, [Event.sound 30#8]) ∧
    (after 0xF418 start).map (fun t => (t.ST, t.events)) = some (0x00#8, [Event.sound 0#8]) := by decide

/-! ## Fetch, agents, load -/

/-- F1: the last word of memory is fetched. -/
theorem test_fetch_top : pcMode 0x1200 { start with PC := 0xFFE#16 } = some (0x200#16, .running) := by decide

/-- F2, F3 -/
theorem test_fetch_invalid :
    step { start with PC := 0x1000#16 } = .next { start with PC := 0x1000#16, mode := .halted .invalidProgramCounter } ∧
    step { start with PC := 0x201#16 } = .next { start with PC := 0x201#16, mode := .halted .invalidProgramCounter } :=
  ⟨rfl, rfl⟩

/-- S9 -/
theorem test_unknown : pcMode 0x8018 start = some (0x200#16, .halted .unknownInstruction) := by decide

/-- The very first step after reset runs the placed word. -/
theorem test_withFetchWord_reset : vfpc 0 0x6005 State.reset = some (0x05#8, 0x00#8, 0x202#16) := by decide

/-- K14, K15: a scheduled tick, also of a halted engine. -/
theorem test_timer_tick :
    step { State.reset with DT := 0x05#8, mode := .halted .unknownInstruction, schedule := [.timerTick] } =
      .next { State.reset with DT := 0x04#8, mode := .halted .unknownInstruction } ∧
    step { start with ST := 0x01#8, schedule := [.timerTick] } = .next start := ⟨rfl, rfl⟩

/-- K16, K18 -/
theorem test_key_edges :
    step { start with schedule := [.pressKey 3] } = .next { start with K := 0x0008#16 } ∧
    step { start with K := 0x0008#16, schedule := [.pressKey 3] } = .next { start with K := 0x0008#16 } ∧
    step { start with K := 0x0028#16, schedule := [.releaseKey 3] } = .next { start with K := 0x0020#16 } := ⟨rfl, rfl, rfl⟩

/-- K17 -/
theorem test_key_rejected :
    step { start with K := 0x0008#16, schedule := [.pressKey 16] } = .next { start with K := 0x0008#16 } := rfl

/-- L3 -/
theorem test_load : step { State.reset with mode := .halted .stackOverflow, SP := 16, schedule := [.load [0x60#8, 0x05#8]] } =
    .next { start with mem := [(0x200, 0x60#8), (0x201, 0x05#8)], SP := 16 } := rfl

/-- L1, L4 -/
theorem test_tick_outside_running :
    step { State.reset with schedule := [.executionTick] } = .next State.reset ∧
    step { State.reset with mode := .halted .fontWrite, schedule := [.executionTick] } =
      .next { State.reset with mode := .halted .fontWrite } := ⟨rfl, rfl⟩

/-- L5 -/
theorem test_font : [0x000, 0x001, 0x002, 0x003, 0x004, 0x04B, 0x04C, 0x04D, 0x04E, 0x04F, 0x050].map State.reset.mem.read =
    [0xF0#8, 0x90#8, 0x90#8, 0x90#8, 0xF0#8, 0xF0#8, 0x80#8, 0xF0#8, 0x80#8, 0x80#8, 0x00#8] := by decide

/-- The cause codes of 60_exceptions.md R211. -/
theorem test_codes : [FatalCondition.unknownInstruction, .stackOverflow, .stackUnderflow, .invalidProgramCounter, .fontWrite,
    .keyIndexOutOfRange].map FatalCondition.code = [1, 2, 3, 4, 5, 6] := by decide

/-! ## Witnesses: states and operands that meet the hypotheses of each obligation, clause by clause -/

/-- `start` at PC = 0xFFE, the last address a fetch accepts, with a word there. -/
def atTop (w : Word) (s : State) : State := { s with PC := 0xFFE#16, mem := Memory.writeBytes [] 0xFFE (wordBytes w) }

/-- A running machine whose next word is `w`. -/
def withWord (w : Nat) (s : State) : State := s.withFetchWord 16 w

/-- DecodedBytesAreTheEncoding. -/
theorem wit_decoded : decode (0xD1#8 :: 0x2F#8 :: [0xAB#8]) = .ok (.drw 1 2 15, [0xAB#8]) := rfl

/-- OpcodeTableSelectsTheInstruction: rows, with a word inside and one outside. -/
theorem wit_opcodeTable : (⟨"5XY0", 0x5000#16, 0xF00F#16⟩ : TableRow) ∈ opcodeTable ∧
    0x5120#16 &&& 0xF00F#16 = 0x5000#16 ∧ 0x5121#16 &&& 0xF00F#16 ≠ 0x5000#16 ∧
    (⟨"00E0", 0x00E0#16, 0xFFFF#16⟩ : TableRow) ∈ opcodeTable ∧ (⟨"FX65", 0xF065#16, 0xF0FF#16⟩ : TableRow) ∈ opcodeTable := by
  decide

/-- UnlistedWordsAreUnknown: words of each clause, and their neighbours. -/
theorem wit_unlisted : ([0x0000#16, 0x00E1#16, 0x00ED#16, 0x0FFF#16, 0x5001#16, 0x900F#16, 0x8008#16, 0x800D#16, 0x8FFF#16,
      0xE000#16, 0xE09F#16, 0xF000#16, 0xFFFF#16] : List Word).all (fun w => decodeWord w == none) = true ∧
    ([0x00E0#16, 0x00EE#16, 0x5000#16, 0x9FF0#16, 0x8007#16, 0x800E#16, 0xE09E#16, 0xEFA1#16, 0xF007#16,
      0xFF65#16] : List Word).all (fun w => decodeWord w != none) = true := by decide

/-- StepRunsTheDecodedInstruction, at the lowest and the highest address, with and without a scheduled tick. -/
theorem wit_stepRuns :
    (atTop 0x1200#16 start).mode = .running ∧ Fetchable (atTop 0x1200#16 start).PC ∧
    decode [(atTop 0x1200#16 start).mem.read (atTop 0x1200#16 start).PC.toNat,
      (atTop 0x1200#16 start).mem.read ((atTop 0x1200#16 start).PC.toNat + 1)] = .ok (.jp 0x200#12, []) ∧
    (atTop 0x1200#16 start).schedule = [] ∧
    ({ atTop 0x1200#16 start with schedule := [.executionTick, .timerTick] } : State).schedule =
      .executionTick :: [.timerTick] := by
  unfold Fetchable; exact ⟨rfl, ⟨rfl, by decide⟩, rfl, rfl, rfl⟩

/-- RunningStepAlwaysAnswersNext; HaltingStepChangesOnlyTheMode: a free-running step that halts. -/
theorem wit_halting : EngineTurn (withWord 0x8018 start) ∧
    step (withWord 0x8018 start) = .next { withWord 0x8018 start with mode := .halted .unknownInstruction } :=
  ⟨⟨rfl, .inl rfl⟩, rfl⟩

/-- HaltingStepChangesOnlyTheMode, CauseOfEveryHalt: a scheduled execution tick that halts, at an odd PC, at a PC that is too
large and at a word without semantics. -/
theorem wit_halting_tick :
    EngineTurn { start with PC := 0x201#16, schedule := [.executionTick, .timerTick] } ∧
    HaltCause { start with PC := 0x201#16, schedule := [.executionTick, .timerTick] } .invalidProgramCounter ∧
    step { start with PC := 0x201#16, schedule := [.executionTick, .timerTick] } =
      .next { start with PC := 0x201#16, mode := .halted .invalidProgramCounter, schedule := [.timerTick] } ∧
    step { start with PC := 0x1000#16, schedule := [.executionTick] } =
      .next { start with PC := 0x1000#16, mode := .halted .invalidProgramCounter } ∧
    step { withWord 0x8018 start with schedule := [.executionTick] } =
      .next { withWord 0x8018 start with mode := .halted .unknownInstruction } :=
  ⟨⟨rfl, .inr rfl⟩, .inl (by decide), rfl, rfl, rfl⟩

/-- CauseOfEveryHalt: each cause at a boundary. -/
theorem wit_cause_pc : HaltCause { start with PC := 0x1000#16 } .invalidProgramCounter ∧
    HaltCause { start with PC := 0x201#16 } .invalidProgramCounter ∧
    ¬HaltCause (atTop 0x1200#16 start) .invalidProgramCounter := by
  unfold HaltCause; exact ⟨.inr (by decide), .inl (by decide), by decide⟩

theorem wit_cause_word : HaltCause (withWord 0x00E1 start) .unknownInstruction := by
  unfold HaltCause Fetchable; exact ⟨by decide, rfl⟩

theorem wit_cause_stack : HaltCause (withWord 0x2400 { start with SP := 16 }) .stackOverflow ∧
    HaltCause (withWord 0x00EE start) .stackUnderflow := ⟨⟨0x400#12, rfl, rfl⟩, rfl, rfl⟩

theorem wit_cause_font : HaltCause (withWord 0xF033 { start with I := 0x04F#16 }) .fontWrite ∧
    HaltCause (withWord 0xF033 { start with I := 0xFFE#16 }) .fontWrite ∧
    HaltCause (withWord 0xFF55 { start with I := 0xFF1#16 }) .fontWrite :=
  ⟨⟨0, .inl ⟨rfl, 0, by decide, by decide⟩⟩, ⟨0, .inl ⟨rfl, 2, by decide, by decide⟩⟩,
    ⟨15, .inr ⟨rfl, 15, by decide, by decide⟩⟩⟩

theorem wit_cause_key : HaltCause (withWord 0xE19E (start.setV 1 0x10#8)) .keyIndexOutOfRange ∧
    HaltCause (withWord 0xE1A1 (start.setV 1 0xFF#8)) .keyIndexOutOfRange :=
  ⟨⟨1, .inl rfl, by decide⟩, ⟨1, .inr rfl, by decide⟩⟩

/-- NoStepOutsideRunning: the three clauses. -/
theorem wit_outside : State.reset.mode ≠ .running ∧ State.reset.schedule = [] ∧ State.reset.mode = .unloaded ∧
    ({ State.reset with schedule := [.executionTick] } : State).schedule = .executionTick :: [] ∧
    ({ start with mode := .halted .fontWrite } : State).mode ≠ .running := ⟨by decide, rfl, rfl, rfl, by decide⟩

/-- AgentsTakeTheirTurn: each agent step by name, with a key and a length on either side of its bound. -/
theorem wit_agents :
    ({ start with schedule := [.timerTick, .executionTick] } : State).schedule = .timerTick :: [.executionTick] ∧
    ({ start with schedule := [.pressKey 15] } : State).schedule = .pressKey 15 :: [] ∧ 15 ≤ 15 ∧
    ({ start with schedule := [.releaseKey 16] } : State).schedule = .releaseKey 16 :: [] ∧ 16 > 15 ∧
    ({ start with schedule := [.load (List.replicate 3584 0xFF#8)] } : State).schedule =
      .load (List.replicate 3584 0xFF#8) :: [] ∧ (List.replicate 3584 0xFF#8).length ≤ 3584 ∧
    ({ start with schedule := [.load (List.replicate 3585 0xFF#8)] } : State).schedule =
      .load (List.replicate 3585 0xFF#8) :: [] ∧ (List.replicate 3585 0xFF#8).length > 3584 := by
  exact ⟨rfl, rfl, by decide, rfl, by decide, rfl, List.length_replicate.le, rfl,
    List.length_replicate.ge.trans_lt' (by decide)⟩

/-- EveryStepKeepsMemoryCanonical, MemoryChangesOnlyWhereStored: a store to memory that holds other bytes. -/
theorem wit_memory : MemoryCanonical (withWord 0xF033 { (start.setV 0 0xFE#8) with I := 0x300#16 }) ∧
    ∃ t, step (withWord 0xF033 { (start.setV 0 0xFE#8) with I := 0x300#16 }) = .next t ∧
      t.mem.read 0x300 ≠ (withWord 0xF033 { (start.setV 0 0xFE#8) with I := 0x300#16 }).mem.read 0x300 :=
  ⟨rfl, _, rfl, by decide⟩

/-- EveryStepKeepsTheStackFetchable: a call with one entry in use. -/
theorem wit_stackFetchable : StackFetchable (atTop 0x2400#16 { start with SP := 1, S := start.S.set 0 0xFFE#16 }) ∧
    ∃ t, step (atTop 0x2400#16 { start with SP := 1, S := start.S.set 0 0xFFE#16 }) = .next t ∧ t.SP.val = 2 := by
  refine ⟨?_, _, rfl, rfl⟩
  unfold StackFetchable Fetchable; decide

/-- NoStepChangesTheFont: a store right above the font, and a byte of the font. -/
theorem wit_font : (∃ t, step (withWord 0xF033 { start with I := 0x050#16 }) = .next t) ∧ 0x04F < 0x050 :=
  ⟨⟨_, rfl⟩, by decide⟩

/-- KeyMaskChangesOnlyByKeyEdges: both edges. -/
theorem wit_keyEdges : (∃ t, step { start with schedule := [.pressKey 15] } = .next t ∧ t.K ≠ start.K) ∧
    ∃ t, step { start with K := 0x0001#16, schedule := [.releaseKey 0] } = .next t ∧ t.K ≠ 0x0001#16 :=
  ⟨⟨_, rfl, by decide⟩, _, rfl, by decide⟩

/-- FramebufferConcernsOnlyClearAndDraw (third clause): a scheduled step of another agent. -/
theorem wit_agentFB : (AgentStep.pressKey 15) ≠ .executionTick ∧
    ∃ t, step { start with schedule := [.pressKey 15] } = .next t := ⟨by decide, _, rfl⟩

/-- KeyMaskIsReadOnlyByKeyInstructions, FramebufferConcernsOnlyClearAndDraw, SoundTimerIsNeverRead (first clause),
TimerTickCommutesWithInstructions: 8XY4 is none of the instructions they except. -/
theorem wit_plain : (∀ x, Instr.addReg 0 1 ≠ .skp x ∧ Instr.addReg 0 1 ≠ .sknp x ∧ Instr.addReg 0 1 ≠ .ldVxK x) ∧
    Instr.addReg 0 1 ≠ .cls ∧ (∀ x y n, Instr.addReg 0 1 ≠ .drw x y n) ∧ (∀ x, Instr.addReg 0 1 ≠ .ldStVx x) ∧
    (∀ x, Instr.addReg 0 1 ≠ .ldVxDt x ∧ Instr.addReg 0 1 ≠ .ldDtVx x ∧ Instr.addReg 0 1 ≠ .ldStVx x) ∧
    ∃ t, exec (.addReg 0 1) (regs 0 0xFF#8 1 0x01#8) = .next t := by
  simp only [ne_eq, reduceCtorEq, not_false_eq_true, implies_true, and_self, true_and]; exact ⟨_, rfl⟩

/-- SoundTimerIsNeverRead (second clause), EventLogIsAppendedAndNeverRead, TimersRiseOnlyWhenSet: both timers rise. -/
theorem wit_timers : (∃ t, exec (.ldStVx 4) (start.setV 4 0xFF#8) = .next t) ∧
    (∃ t, step (withWord 0xF418 (start.setV 4 0xFF#8)) = .next t ∧ t.ST.toNat > start.ST.toNat) ∧
    ∃ t, step (withWord 0xF415 (start.setV 4 0xFF#8)) = .next t ∧ t.DT.toNat > start.DT.toNat :=
  ⟨⟨_, rfl⟩, ⟨_, rfl, by decide⟩, _, rfl, by decide⟩

/-- StaleStackEntriesAreNeverRead: stacks that differ at and above SP only, for a call and a return. -/
theorem wit_stale :
    (∀ j : Fin 16, j.val < ({ start with SP := 1 } : State).SP.val →
      (start.S.set 1 0x222#16)[j.val]'j.isLt = start.S[j.val]'j.isLt) ∧ start.S.set 1 0x222#16 ≠ start.S ∧
    (∃ t, exec .ret { start with SP := 1 } = .next t) ∧ ∃ t, exec (.call 0x300#12) { start with SP := 1 } = .next t :=
  ⟨by decide, by decide, ⟨_, rfl⟩, _, rfl⟩

/-- StackChangesOnlyByCallAndReturn: a change of the stack, and of SP alone. -/
theorem wit_stackChanges : (∃ t, exec (.call 0x300#12) start = .next t ∧ t.S ≠ start.S) ∧
    ∃ t, exec .ret { start with SP := 16 } = .next t ∧ t.SP ≠ 16 := ⟨⟨_, rfl, by decide⟩, _, rfl, by decide⟩

/-- IndexChangesOnlyByItsInstructions: each alternative. -/
theorem wit_index : (∃ t, exec (.ldI 0x300#12) start = .next t ∧ t.I ≠ start.I) ∧
    (∃ t, exec (.addI 0) (start.setV 0 0x01#8) = .next t ∧ t.I ≠ start.I) ∧
    ∃ t, exec (.loadRegs 15) (three .incrementX) = .next t ∧ t.I ≠ (three .incrementX).I :=
  ⟨⟨_, rfl, by decide⟩, ⟨_, rfl, by decide⟩, _, rfl, by decide⟩

/-- RegistersChangeOnlyWhereNamed: a destination, VF, and the last register of a block load. -/
theorem wit_registers : (∃ t, exec (.addReg 0 1) (regs 0 0xFF#8 1 0x01#8) = .next t ∧ t.getV 0 ≠ 0xFF#8 ∧ t.getV 15 ≠ 0x00#8) ∧
    ∃ t, exec (.loadRegs 15) { start with I := 0x03C#16 } = .next t ∧ t.getV 15 ≠ start.getV 15 :=
  ⟨⟨_, rfl, by decide, by decide⟩, _, rfl, by decide⟩

/-- OnlyHoldOrSelfJumpStandsStill: the three ways to stand still, and a step that moves on. -/
theorem wit_still : Holding (withWord 0xF30A start) ∧ step (withWord 0xF30A start) = .next (withWord 0xF30A start) ∧
    step (withWord 0x1200 start) = .next (withWord 0x1200 start) ∧
    step (withWord 0xB1FF (start.setV 0 0x01#8)) = .next (withWord 0xB1FF (start.setV 0 0x01#8)) ∧
    ∃ t, step (withWord 0x1202 start) = .next t ∧ t.PC ≠ (withWord 0x1202 start).PC :=
  ⟨⟨rfl, ⟨3, rfl⟩, rfl⟩, rfl, rfl, rfl, _, rfl, by decide⟩

/-- DrawXorsTheWrappedSprite: a lit pixel of the sprite in the last row and column, with and without a collision there. -/
theorem wit_draw :
    SpriteLit ((sprite 0x300#16 0x80#8).setV 1 0xFF#8) 0xFF#8 0xFF#8 1 31 63 ∧
    pixel (start.FB.set 31 1#64) 31 63 = true ∧ pixel start.FB 31 63 = false :=
  ⟨⟨0, by decide, 7, by decide, by decide, by decide, by decide⟩, by decide, by decide⟩

/-- DrawingTwiceRestoresTheScreen. -/
theorem wit_drawTwice : (0 : Reg) ≠ 15 ∧ (1 : Reg) ≠ 15 ∧
    ∃ t, exec (.drw 0 1 1) (sprite 0x300#16 0xFF#8) = .next t ∧ t.getV 15 = 0x00#8 := ⟨by decide, by decide, _, rfl, by decide⟩

/-- CallPushesItsOwnAddress, ReturnGoesPastTheCall: SP at its bounds. -/
theorem wit_calls : ({ start with SP := 16 } : State).SP.val = 16 ∧ ({ start with SP := 15 } : State).SP.val < 16 ∧
    start.SP.val = 0 ∧ start.SP.val < 16 ∧ ({ start with SP := 1 } : State).SP.val = (0 : Fin 16).val + 1 ∧
    ({ start with SP := 16 } : State).SP.val = (15 : Fin 16).val + 1 := ⟨rfl, by decide, rfl, by decide, rfl, rfl⟩

/-- ReturnUndoesCall: a nested call that has returned leaves a stale entry at SP, and the premises hold all the same; and the
deepest call, with nothing in between. -/
theorem wit_nested : (∃ t c u, exec (.call 0x300#12) start = .next t ∧ exec (.call 0x400#12) t = .next c ∧
      exec .ret c = .next u ∧ u.SP = t.SP ∧ u.S ≠ t.S ∧
      ∀ j : Fin 16, j.val < t.SP.val → u.S[j.val]'j.isLt = t.S[j.val]'j.isLt) ∧
    ∃ t, exec (.call 0x300#12) { start with SP := 15 } = .next t ∧ t.SP.val = 16 :=
  ⟨⟨_, _, _, rfl, rfl, rfl, rfl, by decide, by decide⟩, _, rfl, rfl⟩

/-- AddWritesSumAndCarry: the clause for a destination that is not VF. -/
theorem wit_add : (0 : Reg) ≠ 15 := by decide

/-- SubtractWritesDifferenceAndFlag: a flag function for each rule. -/
theorem wit_subtract (rule : Config.SubFlagRule) : ∃ flag : Nat → Nat → Bool,
    ((withSubFlag rule start).params.subFlag = .notBorrow → ∀ a b, flag a b = decide (a ≥ b)) ∧
    ((withSubFlag rule start).params.subFlag = .notBorrowStrict → ∀ a b, flag a b = decide (a > b)) ∧
    ((withSubFlag rule start).params.subFlag = .borrow → ∀ a b, flag a b = decide (a < b)) := by
  cases rule
  · exact ⟨fun a b => decide (a ≥ b), fun _ _ _ => rfl, nofun, nofun⟩
  · exact ⟨fun a b => decide (a > b), nofun, fun _ _ _ => rfl, nofun⟩
  · exact ⟨fun a b => decide (a < b), nofun, nofun, fun _ _ _ => rfl⟩

/-- ShiftsWriteResultAndBitOut: the operand for each source. -/
theorem wit_shift :
    ((regs 0 0xFF#8 1 0x02#8).params.shiftSource = .vx ∧ ((regs 0 0xFF#8 1 0x02#8).getV 0).toNat = 255) ∧
    ((shiftVy (regs 0 0xFF#8 1 0x02#8)).params.shiftSource = .vy ∧ ((regs 0 0xFF#8 1 0x02#8).getV 1).toNat = 2) :=
  ⟨⟨rfl, rfl⟩, rfl, rfl⟩

/-- RandomMasksTheDrawnByte: a substituted byte, and none. -/
theorem wit_random : ({ start with randomFeed := [0xA7#8] } : State).randomFeed = 0xA7#8 :: [] ∧ start.randomFeed = [] :=
  ⟨rfl, rfl⟩

/-- BcdStoresTheDecimalDigits: blocks on either side of the font's two edges. -/
theorem wit_bcd : BlockHitsFont { start with I := 0x04F#16 } 3 ∧ BlockHitsFont { start with I := 0xFFE#16 } 3 ∧
    ¬BlockHitsFont { start with I := 0x050#16 } 3 ∧ ¬BlockHitsFont { start with I := 0xFFD#16 } 3 ∧ MemoryCanonical start := by
  refine ⟨⟨0, by decide, by decide⟩, ⟨2, by decide, by decide⟩, ?_, ?_, rfl⟩ <;> unfold BlockHitsFont <;> decide

/-- StoreRegistersFillsTheBlock, LoadRegistersReadsTheBlock: the same for x = F, and each index mode. -/
theorem wit_storeRegs : BlockHitsFont { start with I := 0xFF1#16 } ((15 : Reg).val + 1) ∧
    ¬BlockHitsFont { start with I := 0xFF0#16 } ((15 : Reg).val + 1) ∧
    ¬BlockHitsFont (three .unchanged) ((2 : Reg).val + 1) ∧ MemoryCanonical (three .unchanged) ∧
    (three .unchanged).params.indexMode = .unchanged ∧ (three .incrementX1).params.indexMode = .incrementX1 ∧
    (three .incrementX).params.indexMode = .incrementX := by
  refine ⟨⟨15, by decide, by decide⟩, ?_, ?_, rfl, rfl, rfl, rfl⟩ <;> unfold BlockHitsFont <;> decide

/-- LoadRestoresStoredRegisters: with the registers overwritten in between. -/
theorem wit_restore : MemoryCanonical (three .unchanged) ∧ ¬BlockHitsFont (three .unchanged) ((2 : Reg).val + 1) ∧
    ∃ t, exec (.storeRegs 2) (three .unchanged) = .next t ∧
      ({ t with V := start.V } : State).mem = t.mem ∧ ({ t with V := start.V } : State).I = (three .unchanged).I := by
  refine ⟨rfl, ?_, _, rfl, rfl, rfl⟩
  unfold BlockHitsFont; decide

/-- KeySkipsTestTheNumberedKey, WaitStoresTheLowestPressedKey: both sides of each bound. -/
theorem wit_keys : ((start.setV 1 0x0F#8).getV 1).toNat ≤ 15 ∧ ((start.setV 1 0x10#8).getV 1).toNat > 15 ∧ start.K = 0#16 ∧
    ({ start with K := 0x8000#16 } : State).K ≠ 0#16 := by decide

/-- KeyEdgesSetAndClearOneBit: the last key, and the first number that is none. -/
theorem wit_keyNumbers : (start.pressKey 15).isOk = true ∧ (start.releaseKey 0).isOk = true ∧
    start.pressKey 16 = .error .invalidKey ∧ start.releaseKey 16 = .error .invalidKey := ⟨rfl, rfl, rfl, rfl⟩

/-- LoadCopiesTheProgram: the longest program, and one byte more (L2). -/
theorem wit_load : (List.replicate 3584 0xFF#8).length ≤ 3584 ∧ (List.replicate 3585 0xFF#8).length > 3584 ∧
    MemoryCanonical start := by
  simp only [List.length_replicate]; exact ⟨by decide, by decide, rfl⟩

/-- ConstructionWritesTheFont: a launch memory that holds bytes on either side of the font's end. -/
theorem wit_construct : ({ cleanLaunch with mem := [(0x04F, 0x11#8), (0x050, 0x22#8)] } : LaunchState).mem.wf = true := rfl

/-- ParkedEngineStaysParked (P1 ends so). -/
theorem wit_parked : Parked (withWord 0x120A { start with PC := 0x20A#16 }) ∧
    (withWord 0x120A { start with PC := 0x20A#16 }).schedule = [] := ⟨⟨rfl, 0x20A#12, rfl, rfl⟩, rfl⟩

end Sys2Proof.Tests
end

/-! SUPPORT. The frame of `exec`: the elements each instruction may change, one row per instruction, and what follows from
it element by element (10_state.md R20 to R30). -/

namespace Sys2Proof.Machine

variable {i : Instr} {s t : State}

/-- `s` with the elements that instruction `i` may change taken from `t`. `mode` is among them exactly for the
instructions that can raise a fatal condition. -/
def State.updatedBy (s : State) (i : Instr) (t : State) : State :=
  match i with
  | .cls => { s with FB := t.FB, events := t.events, PC := t.PC }
  | .ret => { s with SP := t.SP, PC := t.PC, mode := t.mode }
  | .call _ => { s with S := t.S, SP := t.SP, PC := t.PC, mode := t.mode }
  | .jp _ | .jpV0 _ | .seByte _ _ | .sneByte _ _ | .seReg _ _ | .sneReg _ _ => { s with PC := t.PC }
  | .skp _ | .sknp _ => { s with PC := t.PC, mode := t.mode }
  | .ldByte _ _ | .addByte _ _ | .ldReg _ _ | .orReg _ _ | .andReg _ _ | .xorReg _ _ | .addReg _ _ | .sub _ _
  | .shr _ _ | .subn _ _ | .shl _ _ | .ldVxDt _ | .ldVxK _ => { s with V := t.V, PC := t.PC }
  | .rnd _ _ => { s with V := t.V, PC := t.PC, randomFeed := t.randomFeed, draws := t.draws }
  | .drw _ _ _ => { s with V := t.V, FB := t.FB, events := t.events, PC := t.PC }
  | .ldI _ | .addI _ | .ldF _ => { s with I := t.I, PC := t.PC }
  | .ldDtVx _ => { s with DT := t.DT, PC := t.PC }
  | .ldStVx _ => { s with ST := t.ST, events := t.events, PC := t.PC }
  | .ldB _ => { s with mem := t.mem, PC := t.PC, mode := t.mode }
  | .storeRegs _ => { s with mem := t.mem, I := t.I, PC := t.PC, mode := t.mode }
  | .loadRegs _ => { s with V := t.V, I := t.I, PC := t.PC }

/-- CXNN changes the random port's own fields, then writes its register. -/
theorem exec_rnd_cases (x : Reg) (nn : Byte) (s : State) :
    ∃ b feed draws, exec (.rnd x nn) s =
      .next (State.writeReg { s with randomFeed := feed, draws := draws } x (b &&& nn)) := by
  rcases s.drawByte_cases with ⟨b, rest, _, hd⟩ | ⟨_, hd⟩
  · exact ⟨b, rest, s.draws, by simp [exec, execRnd, hd]⟩
  · exact ⟨Config.freeByte s.draws, s.randomFeed, s.draws + 1, by simp [exec, execRnd, hd]⟩

/-- An instruction that answers a next state changed nothing outside its row of `State.updatedBy`. -/
theorem exec_frame (h : exec i s = .next t) : t = s.updatedBy i t := by
  cases i with
  | ret => rcases execRet_cases s with ⟨_, e⟩ | ⟨_, e⟩ <;> cases e.symm.trans h <;> rfl
  | call a => rcases execCall_cases a s with ⟨_, e⟩ | ⟨_, e⟩ <;> cases e.symm.trans h <;> rfl
  | ldB x => rcases execLdB_cases x s with ⟨_, e⟩ | ⟨_, e⟩ <;> cases e.symm.trans h <;> rfl
  | storeRegs x => rcases execStoreRegs_cases x s with ⟨_, e⟩ | ⟨_, e⟩ <;> cases e.symm.trans h <;> rfl
  | skp x => rcases execSkp_cases x s with ⟨_, e⟩ | ⟨_, e⟩ <;> cases e.symm.trans h <;> rfl
  | sknp x => rcases execSknp_cases x s with ⟨_, e⟩ | ⟨_, e⟩ <;> cases e.symm.trans h <;> rfl
  | ldVxK x => rcases execLdVxK_cases x s with ⟨_, e⟩ | ⟨_, _, e⟩ <;> cases e.symm.trans h <;> rfl
  | rnd x nn => obtain ⟨_, _, _, e⟩ := exec_rnd_cases x nn s; cases e.symm.trans h; rfl
  | _ => cases h; rfl

theorem exec_K (h : exec i s = .next t) : t.K = s.K :=
  (congrArg State.K (exec_frame h)).trans (by cases i <;> rfl)

theorem exec_S_of_ret (h : exec .ret s = .next t) : t.S = s.S :=
  (congrArg State.S (exec_frame h)).trans rfl

theorem exec_stack_of_not_ret_call (h : exec i s = .next t) (hi : ¬(i = .ret ∨ ∃ a, i = .call a)) :
    t.S = s.S ∧ t.SP = s.SP := by
  have hf := exec_frame h
  cases i with
  | ret => exact absurd (.inl rfl) hi
  | call a => exact absurd (.inr ⟨a, rfl⟩) hi
  | _ => exact ⟨(congrArg State.S hf).trans rfl, (congrArg State.SP hf).trans rfl⟩

theorem exec_DT_cases (h : exec i s = .next t) : (∃ x, i = .ldDtVx x) ∨ t.DT = s.DT := by
  have hf := exec_frame h
  cases i with
  | ldDtVx x => exact .inl ⟨x, rfl⟩
  | _ => exact .inr ((congrArg State.DT hf).trans rfl)

theorem exec_ST_cases (h : exec i s = .next t) : (∃ x, i = .ldStVx x) ∨ t.ST = s.ST := by
  have hf := exec_frame h
  cases i with
  | ldStVx x => exact .inl ⟨x, rfl⟩
  | _ => exact .inr ((congrArg State.ST hf).trans rfl)

/-- Under the default of `LOADSTORE_INDEX_MODE` a block transfer leaves I (43_index_memory.md R176). -/
theorem State.indexAfterBlock_of_unchanged (x : Reg) (h : s.params.indexMode = .unchanged) :
    s.indexAfterBlock x = s.I := by
  simp [State.indexAfterBlock, h]

theorem State.getV_writeReg_of_ne (s : State) {x r : Reg} (b : Byte) (h : r ≠ x) :
    (s.writeReg x b).getV r = s.getV r :=
  s.getV_setV_other b h

theorem State.getV_writeFlagged_of_ne (s : State) {x r : Reg} (b : Byte) (f : Bool) (h : ¬(r = x ∨ r = 15)) :
    (s.writeFlagged x b f).getV r = s.getV r := by
  obtain ⟨hx, hf⟩ := not_or.1 h
  exact ((s.setV x b).getV_setV_other (flagByte f) hf).trans (s.getV_setV_other b hx)

theorem exec_getV_of_not_mayWrite {r : Reg} (h : exec i s = .next t) (hr : ¬mayWrite i r) : t.getV r = s.getV r := by
  have hf := exec_frame h
  cases i with
  | ldByte x _ | addByte x _ | ldReg x _ | orReg x _ | andReg x _ | xorReg x _ | ldVxDt x =>
    cases h
    exact s.getV_writeReg_of_ne _ hr
  | addReg x _ | sub x _ | shr x _ | subn x _ | shl x _ =>
    cases h
    exact s.getV_writeFlagged_of_ne _ _ hr
  | rnd x nn =>
    obtain ⟨b, feed, draws, e⟩ := exec_rnd_cases x nn s
    cases e.symm.trans h
    exact State.getV_writeReg_of_ne _ _ hr
  | ldVxK x =>
    rcases execLdVxK_cases x s with ⟨_, e⟩ | ⟨_, _, e⟩ <;> cases e.symm.trans h
    · rfl
    · exact s.getV_writeReg_of_ne _ hr
  | drw x y n =>
    cases h
    exact State.getV_setV_other _ _ hr
  | loadRegs x =>
    have hr : ¬r.val ≤ x.val := hr
    cases h
    exact (getElem_loadBlock _ _ _ _ r.isLt).trans (if_neg (by omega))
  | _ => exact (congrArg (State.getV · r) hf).trans rfl

end Sys2Proof.Machine

/-! SUPPORT. What a step and a port can do, with the turns of the schedule put together (20_memory.md R58). -/

namespace Sys2Proof.Machine

variable {s t : State} {a : AgentStep}

/-- A step that answers a next state ran the instruction at PC, or changed `mode` at most, or was an agent's accepted
step; in each case the schedule may have moved on. -/
theorem step_effect (h : step s = .next t) :
    ∃ rest : List AgentStep,
      (∃ i, s.nextInstr = .ok i ∧ exec i { s with schedule := rest } = .next t) ∨
      (∃ m, t = { s with schedule := rest, mode := m }) ∨
      ∃ a, s.schedule = a :: rest ∧ State.port { s with schedule := rest } a = .ok t := by
  have engine : ∀ rest, executionStep { s with schedule := rest } = .next t →
      (∃ i, s.nextInstr = .ok i ∧ exec i { s with schedule := rest } = .next t) ∨
      ∃ m, t = { s with schedule := rest, mode := m } := by
    intro rest h
    rcases executionStep_cases { s with schedule := rest } with ⟨i, _, hi, he⟩ | ⟨_, _, he⟩
    · exact .inl ⟨i, hi, he.symm.trans h⟩
    · cases he.symm.trans h
      exact .inr ⟨_, rfl⟩
  rcases step_cases h with ⟨_, _, he⟩ | ⟨a, rest, hs, ⟨_, _, he⟩ | ⟨_, _, rfl⟩ | ⟨_, hp | ⟨_, _, rfl⟩⟩⟩
  · exact ⟨s.schedule, (engine s.schedule he).imp_right .inl⟩
  · exact ⟨rest, (engine rest he).imp_right .inl⟩
  · exact ⟨rest, .inr (.inl ⟨s.mode, rfl⟩)⟩
  · exact ⟨rest, .inr (.inr ⟨a, hs, hp⟩)⟩
  · exact ⟨rest, .inr (.inl ⟨s.mode, rfl⟩)⟩

/-- What a port does with a step it accepts: nothing, a timer tick, an edge of a key 0..15, or a load. -/
theorem State.port_cases (h : s.port a = .ok t) :
    t = s ∨ t = s.timerTick ∨
    (∃ k, k ≤ 15 ∧ (a = .pressKey k ∨ a = .releaseKey k) ∧ t = { s with K := t.K }) ∨
    ∃ bytes, t = (s.setMem (s.mem.writeBytes Config.programBase.toNat bytes)).enterProgram := by
  cases a with
  | executionTick => cases h; exact .inl rfl
  | timerTick => cases h; exact .inr (.inl rfl)
  | pressKey k =>
    by_cases hk : k > 15
    · simp [State.port, State.pressKey, hk] at h
    · simp only [State.port, State.pressKey, hk, if_false, Except.ok.injEq] at h
      exact .inr (.inr (.inl ⟨k, by omega, .inl rfl, by rw [← h]⟩))
  | releaseKey k =>
    by_cases hk : k > 15
    · simp [State.port, State.releaseKey, hk] at h
    · simp only [State.port, State.releaseKey, hk, if_false, Except.ok.injEq] at h
      exact .inr (.inr (.inl ⟨k, by omega, .inr rfl, by rw [← h]⟩))
  | load bytes =>
    by_cases hl : bytes.length > Config.maxProgram
    · simp [State.port, State.load, hl, Except.map] at h
    · simp only [State.port, State.load, hl, if_false, Except.map, Except.ok.injEq] at h
      exact .inr (.inr (.inr ⟨bytes, h.symm⟩))

theorem State.port_FB (h : s.port a = .ok t) : t.FB = s.FB := by
  rcases State.port_cases h with rfl | rfl | ⟨_, _, _, ht⟩ | ⟨_, rfl⟩
  · rfl
  · rfl
  · rw [ht]
  · rfl

theorem State.port_timers_le (h : s.port a = .ok t) : t.DT.toNat ≤ s.DT.toNat ∧ t.ST.toNat ≤ s.ST.toNat := by
  rcases State.port_cases h with rfl | rfl | ⟨_, _, _, ht⟩ | ⟨_, rfl⟩
  · exact ⟨le_rfl, le_rfl⟩
  · simp [countDown_toNat]
  · rw [ht]; exact ⟨le_rfl, le_rfl⟩
  · exact ⟨le_rfl, le_rfl⟩

theorem step_FB_of_agent {tail : List AgentStep} (hs : s.schedule = a :: tail) (ha : a ≠ .executionTick)
    (h : step s = .next t) : t.FB = s.FB := by
  have hd : step s = deliver a { s with schedule := tail } := by simp [step, turn, hs]
  cases hp : State.port { s with schedule := tail } a with
  | ok u =>
    cases (deliver_of_ok ha hp).symm.trans (hd.symm.trans h)
    exact State.port_FB (s := { s with schedule := tail }) hp
  | error e =>
    cases (deliver_of_error ha hp).symm.trans (hd.symm.trans h)
    rfl

end Sys2Proof.Machine

/-! SUPPORT. Noninterference: an instruction does not notice a change of elements that it neither reads nor writes
(10_state.md R26 to R30). -/

namespace Sys2Proof.Machine

variable {i : Instr} {s t : State}

theorem execRet_of_empty (h : s.SP.val = 0) : execRet s = .next { s with mode := .halted .stackUnderflow } :=
  ((execRet_cases s).resolve_right fun ⟨h', _⟩ => h' h).2

theorem execRet_of_used (h : s.SP.val ≠ 0) : execRet s =
    .next { s with SP := ⟨s.SP.val - 1, by omega⟩, PC := s.S[s.SP.val - 1]'(by omega) + 2#16 } :=
  ((execRet_cases s).resolve_left fun ⟨h', _⟩ => h h').2

theorem execCall_of_full (a : Addr) (h : s.SP.val = 16) :
    execCall a s = .next { s with mode := .halted .stackOverflow } :=
  ((execCall_cases a s).resolve_right fun ⟨h', _⟩ => by omega).2

theorem execCall_of_room (a : Addr) (h : s.SP.val < 16) : execCall a s =
    .next { s with S := s.S.set s.SP.val s.PC h, SP := ⟨s.SP.val + 1, by omega⟩, PC := zext16 a } :=
  ((execCall_cases a s).resolve_left fun ⟨h', _⟩ => by omega).2

theorem execLdVxK_of_idle (x : Reg) (h : s.K = 0#16) : execLdVxK x s = .next s := by
  simp [execLdVxK, (lowestKey_eq_none_iff _).2 h]

theorem execLdVxK_of_pressed (x : Reg) {k : Nat} (h : lowestKey s.K = some k) :
    execLdVxK x s = .next (s.writeReg x (trunc8 k)) := by
  simp [execLdVxK, h]

/-- A change of the stack entries, the timers, the key mask and the framebuffer, element by element. -/
structure SideChange where
  S  : Vector Word 16 → Vector Word 16 := id
  DT : Byte → Byte := id
  ST : Byte → Byte := id
  K  : Word → Word := id
  FB : Vector Row 32 → Vector Row 32 := id

/-- The state after the change. -/
def SideChange.apply (c : SideChange) (s : State) : State :=
  { s with S := c.S s.S, DT := c.DT s.DT, ST := c.ST s.ST, K := c.K s.K, FB := c.FB s.FB }

/-- The change leaves alone every element that the instruction reads or writes. -/
structure SideChange.Spares (c : SideChange) (i : Instr) : Prop where
  S  : (i = .ret ∨ ∃ a, i = .call a) → c.S = id := by exact fun _ => rfl
  DT : (∃ x, i = .ldVxDt x ∨ i = .ldDtVx x) → c.DT = id := by exact fun _ => rfl
  ST : (∃ x, i = .ldStVx x) → c.ST = id := by exact fun _ => rfl
  K  : (∃ x, i = .skp x ∨ i = .sknp x ∨ i = .ldVxK x) → c.K = id := by exact fun _ => rfl
  FB : (i = .cls ∨ ∃ x y n, i = .drw x y n) → c.FB = id := by exact fun _ => rfl

theorem SideChange.drawByte_apply (c : SideChange) (s : State) :
    (c.apply s).drawByte = (s.drawByte.1, c.apply s.drawByte.2) := by
  simp only [State.drawByte, SideChange.apply]
  cases s.randomFeed <;> rfl

/-- An instruction commutes with every change that spares the elements it touches. -/
theorem exec_apply_of_spares {c : SideChange} (hc : c.Spares i) (h : exec i s = .next t) :
    exec i (c.apply s) = .next (c.apply t) := by
  obtain ⟨hS, hDT, hST, hK, hFB⟩ := hc
  obtain ⟨S, DT, ST, K, FB⟩ := c
  cases i with
  | ret =>
    obtain rfl : S = id := hS (.inl rfl)
    rcases execRet_cases s with ⟨h0, e⟩ | ⟨h0, e⟩ <;> cases e.symm.trans h
    · exact execRet_of_empty h0
    · exact execRet_of_used h0
  | call a =>
    obtain rfl : S = id := hS (.inr ⟨a, rfl⟩)
    rcases execCall_cases a s with ⟨h16, e⟩ | ⟨hlt, e⟩ <;> cases e.symm.trans h
    · exact execCall_of_full a h16
    · exact execCall_of_room (s := SideChange.apply _ s) a hlt
  | cls => obtain rfl : FB = id := hFB (.inl rfl); cases h; rfl
  | drw x y n => obtain rfl : FB = id := hFB (.inr ⟨x, y, n, rfl⟩); cases h; rfl
  | ldVxDt x => obtain rfl : DT = id := hDT ⟨x, .inl rfl⟩; cases h; rfl
  | ldDtVx x => obtain rfl : DT = id := hDT ⟨x, .inr rfl⟩; cases h; rfl
  | ldStVx x => obtain rfl : ST = id := hST ⟨x, rfl⟩; cases h; rfl
  | skp x =>
    obtain rfl : K = id := hK ⟨x, .inl rfl⟩
    rcases execSkp_cases x s with ⟨hx, e⟩ | ⟨hx, e⟩ <;> cases e.symm.trans h
    · exact if_pos hx
    · exact if_neg hx.not_gt
  | sknp x =>
    obtain rfl : K = id := hK ⟨x, .inr (.inl rfl)⟩
    rcases execSknp_cases x s with ⟨hx, e⟩ | ⟨hx, e⟩ <;> cases e.symm.trans h
    · exact if_pos hx
    · exact if_neg hx.not_gt
  | ldVxK x =>
    obtain rfl : K = id := hK ⟨x, .inr (.inr rfl)⟩
    rcases execLdVxK_cases x s with ⟨h0, e⟩ | ⟨k, hk, e⟩ <;> cases e.symm.trans h
    · exact execLdVxK_of_idle x h0
    · exact execLdVxK_of_pressed x hk
  | ldB x =>
    rcases execLdB_cases x s with ⟨hx, e⟩ | ⟨hx, e⟩ <;> cases e.symm.trans h
    · exact if_pos hx
    · exact if_neg (Bool.eq_false_iff.1 hx)
  | storeRegs x =>
    rcases execStoreRegs_cases x s with ⟨hx, e⟩ | ⟨hx, e⟩ <;> cases e.symm.trans h
    · exact if_pos hx
    · exact if_neg (Bool.eq_false_iff.1 hx)
  | rnd x nn =>
    cases h
    simp only [exec, execRnd, SideChange.drawByte_apply]
    rfl
  | _ => cases h; rfl

/-- The stack `S'` holds the same entries as `S` below `n`. -/
def StackAgreesBelow (S' S : Vector Word 16) (n : Nat) : Prop :=
  ∀ j : Fin 16, j.val < n → S'[j.val]'j.isLt = S[j.val]'j.isLt

theorem StackAgreesBelow.mono {S' S : Vector Word 16} {m n : Nat} (h : StackAgreesBelow S' S n) (hmn : m ≤ n) :
    StackAgreesBelow S' S m :=
  fun j hj => h j (hj.trans_le hmn)

theorem StackAgreesBelow.set {S' S : Vector Word 16} {n : Nat} (h : StackAgreesBelow S' S n) (hn : n < 16) (a : Word) :
    StackAgreesBelow (S'.set n a) (S.set n a) (n + 1) := by
  intro j hj
  by_cases he : n = j.val
  · simp [he]
  · simpa [Vector.getElem_set, he] using h j (by omega)

/-- 00EE reads only the entry below SP. -/
theorem execRet_of_stackAgreesBelow {S' : Vector Word 16} (hS : StackAgreesBelow S' s.S s.SP.val)
    (h : execRet s = .next t) :
    ∃ t', execRet { s with S := S' } = .next t' ∧ t' = { t with S := t'.S } ∧ StackAgreesBelow t'.S t.S t.SP.val := by
  rcases execRet_cases s with ⟨h0, e⟩ | ⟨h0, e⟩ <;> cases e.symm.trans h
  · exact ⟨_, execRet_of_empty (s := { s with S := S' }) h0, rfl, hS⟩
  · have htop := hS ⟨s.SP.val - 1, by omega⟩ (Nat.sub_one_lt h0)
    exact ⟨_, execRet_of_used (s := { s with S := S' }) h0, by simp only [htop], hS.mono (Nat.sub_le _ _)⟩

/-- 2NNN reads no entry and writes the same one to both stacks. -/
theorem execCall_of_stackAgreesBelow {S' : Vector Word 16} {a : Addr} (hS : StackAgreesBelow S' s.S s.SP.val)
    (h : execCall a s = .next t) :
    ∃ t', execCall a { s with S := S' } = .next t' ∧ t' = { t with S := t'.S } ∧
      StackAgreesBelow t'.S t.S t.SP.val := by
  rcases execCall_cases a s with ⟨h16, e⟩ | ⟨hlt, e⟩ <;> cases e.symm.trans h
  · exact ⟨_, execCall_of_full (s := { s with S := S' }) a h16, rfl, hS⟩
  · exact ⟨_, execCall_of_room (s := { s with S := S' }) a hlt, rfl, hS.set hlt s.PC⟩

end Sys2Proof.Machine

/-! SUPPORT. The bounds of PC and of the stack entries in use (10_state.md R25): `StackFetchable` is kept by every
instruction and by every port. -/

namespace Sys2Proof.Machine

variable {i : Instr} {s t : State}

theorem zext16_addr_toNat_le (a : Addr) : (zext16 a).toNat ≤ 0x10FE := by
  rw [BitVec.toNat_setWidth]
  omega

theorem jpV0_target_toNat_le (a : Addr) (b : Byte) : (zext16 a + zext16 b).toNat ≤ 0x10FE := by
  simp only [BitVec.toNat_add, BitVec.toNat_setWidth]
  omega

/-- No advance or skip from a fetchable address passes the bound. -/
theorem Fetchable.add_toNat_le {pc : Word} (h : Fetchable pc) {n : Nat} (hn : n ≤ 4) :
    (pc + BitVec.ofNat 16 n).toNat ≤ 0x10FE := by
  obtain ⟨_, hpc⟩ := h
  rw [BitVec.toNat_add, BitVec.toNat_ofNat]
  omega

theorem State.skip_PC_le (h : Fetchable s.PC) (c : Bool) : (s.skip c).PC.toNat ≤ 0x10FE := by
  cases c
  · exact h.add_toNat_le (n := 2) (by decide)
  · exact h.add_toNat_le (n := 4) (by decide)

theorem exec_PC_le (hpc : Fetchable s.PC) (hs : StackFetchable s) (h : exec i s = .next t) :
    t.PC.toNat ≤ 0x10FE := by
  obtain ⟨hent, hcur⟩ := hs
  have hadv : (s.PC + 2#16).toNat ≤ 0x10FE := hpc.add_toNat_le (n := 2) (by decide)
  cases i with
  | ret =>
    rcases execRet_cases s with ⟨_, e⟩ | ⟨h0, e⟩ <;> cases e.symm.trans h
    · exact hcur
    · have htop := hent ⟨s.SP.val - 1, by omega⟩ (Nat.sub_one_lt h0)
      exact htop.add_toNat_le (n := 2) (by decide)
  | call a =>
    rcases execCall_cases a s with ⟨_, e⟩ | ⟨_, e⟩ <;> cases e.symm.trans h
    · exact hcur
    · exact zext16_addr_toNat_le a
  | jp a => cases h; exact zext16_addr_toNat_le a
  | jpV0 a => cases h; exact jpV0_target_toNat_le a (s.getV 0)
  | seByte | sneByte | seReg | sneReg => cases h; exact s.skip_PC_le hpc _
  | skp x =>
    rcases execSkp_cases x s with ⟨_, e⟩ | ⟨_, e⟩ <;> cases e.symm.trans h
    · exact hcur
    · exact s.skip_PC_le hpc _
  | sknp x =>
    rcases execSknp_cases x s with ⟨_, e⟩ | ⟨_, e⟩ <;> cases e.symm.trans h
    · exact hcur
    · exact s.skip_PC_le hpc _
  | ldB x => rcases execLdB_cases x s with ⟨_, e⟩ | ⟨_, e⟩ <;> cases e.symm.trans h <;> assumption
  | storeRegs x => rcases execStoreRegs_cases x s with ⟨_, e⟩ | ⟨_, e⟩ <;> cases e.symm.trans h <;> assumption
  | ldVxK x => rcases execLdVxK_cases x s with ⟨_, e⟩ | ⟨_, _, e⟩ <;> cases e.symm.trans h <;> assumption
  | rnd x nn => obtain ⟨_, _, _, e⟩ := exec_rnd_cases x nn s; cases e.symm.trans h; exact hadv
  | _ => cases h; exact hadv

/-- 2NNN pushes the address it was fetched from, 00EE only lowers SP, and nothing else touches the stack. -/
theorem exec_keeps_entriesFetchable (hpc : Fetchable s.PC)
    (hent : ∀ j : Fin 16, j.val < s.SP.val → Fetchable (s.S[j.val]'j.isLt)) (h : exec i s = .next t) :
    ∀ j : Fin 16, j.val < t.SP.val → Fetchable (t.S[j.val]'j.isLt) := by
  by_cases hi : i = .ret ∨ ∃ a, i = .call a
  · obtain rfl | ⟨a, rfl⟩ := hi
    · rcases execRet_cases s with ⟨_, e⟩ | ⟨h0, e⟩ <;> cases e.symm.trans h
      · exact hent
      · exact fun j hj => hent j (hj.trans (Nat.sub_one_lt h0))
    · rcases execCall_cases a s with ⟨_, e⟩ | ⟨hlt, e⟩ <;> cases e.symm.trans h
      · exact hent
      · intro j hj
        have hj : j.val < s.SP.val + 1 := hj
        by_cases he : s.SP.val = j.val
        · simpa [he] using hpc
        · simpa [Vector.getElem_set, he] using hent j (by omega)
  · obtain ⟨hS, hSP⟩ := exec_stack_of_not_ret_call h hi
    rw [hS, hSP]
    exact hent

theorem exec_keeps_stackFetchable (hpc : Fetchable s.PC) (hs : StackFetchable s) (h : exec i s = .next t) :
    StackFetchable t := by
  have ⟨hent, _⟩ := hs
  exact ⟨exec_keeps_entriesFetchable hpc hent h, exec_PC_le hpc hs h⟩

theorem State.port_keeps_stackFetchable {a : AgentStep} (hs : StackFetchable s) (h : s.port a = .ok t) :
    StackFetchable t := by
  obtain ⟨hent, hcur⟩ := hs
  rcases State.port_cases h with rfl | rfl | ⟨_, _, _, ht⟩ | ⟨_, rfl⟩
  · exact ⟨hent, hcur⟩
  · exact ⟨hent, hcur⟩
  · rw [ht]; exact ⟨hent, hcur⟩
  · have hbase : Config.programBase.toNat ≤ 0x10FE := by decide
    exact ⟨hent, hbase⟩

end Sys2Proof.Machine

/-! The statements of the family 10_state.md, settled. -/

namespace Sys2Proof.Machine

/-- Settles O15: a case split on what the step did; an instruction was fetched at a fetchable PC, and a port changes PC
only to the program's base. -/
theorem everyStepKeepsTheStackFetchable : Obligations.EveryStepKeepsTheStackFetchable := by
  unfold Obligations.EveryStepKeepsTheStackFetchable
  intro s t hs h
  obtain ⟨rest, ⟨i, hi, he⟩ | ⟨m, rfl⟩ | ⟨a, _, hp⟩⟩ := step_effect h
  · obtain ⟨hpc, _⟩ := State.nextInstr_ok hi
    exact exec_keeps_stackFetchable (s := { s with schedule := rest }) hpc hs he
  · exact hs
  · exact State.port_keeps_stackFetchable (s := { s with schedule := rest }) hs hp

/-- Settles O17: no instruction changes K, and of what the ports accept only the key edges do. -/
theorem keyMaskChangesOnlyByKeyEdges : Obligations.KeyMaskChangesOnlyByKeyEdges := by
  unfold Obligations.KeyMaskChangesOnlyByKeyEdges
  intro s t h hK
  obtain ⟨rest, ⟨i, _, he⟩ | ⟨m, rfl⟩ | ⟨a, hs, hp⟩⟩ := step_effect h
  · exact absurd (exec_K he) hK
  · exact absurd rfl hK
  · rcases State.port_cases hp with rfl | rfl | ⟨k, hk, rfl | rfl, _⟩ | ⟨_, rfl⟩
    · exact absurd rfl hK
    · exact absurd rfl hK
    · exact ⟨k, rest, hk, .inl hs⟩
    · exact ⟨k, rest, hk, .inr hs⟩
    · exact absurd rfl hK

/-- Settles O18: setting K spares every instruction but the three that read it. -/
theorem keyMaskIsReadOnlyByKeyInstructions : Obligations.KeyMaskIsReadOnlyByKeyInstructions := by
  unfold Obligations.KeyMaskIsReadOnlyByKeyInstructions
  intro i s t keys hi h
  have hc : SideChange.Spares { K := fun _ => keys } i :=
    { K := fun ⟨x, hx⟩ => by
        obtain ⟨hskp, hsknp, hwait⟩ := hi x
        exact absurd hx (by simp [hskp, hsknp, hwait]) }
  exact exec_apply_of_spares hc h

/-- Settles O19: setting FB spares every instruction but 00E0 and DXYN, 00E0 overwrites it, and no port touches it. -/
theorem framebufferConcernsOnlyClearAndDraw : Obligations.FramebufferConcernsOnlyClearAndDraw := by
  unfold Obligations.FramebufferConcernsOnlyClearAndDraw
  refine ⟨?_, fun _ _ => rfl, ?_⟩
  · intro i s t fb hcls hdrw h
    have hc : SideChange.Spares { FB := fun _ => fb } i :=
      { FB := fun hi => hi.elim (absurd · hcls) fun ⟨x, y, n, hx⟩ => absurd hx (hdrw x y n) }
    exact exec_apply_of_spares hc h
  · intro a tail s t hs ha h
    exact step_FB_of_agent hs ha h

/-- Settles O20: setting ST spares every instruction but FX18, which overwrites it. -/
theorem soundTimerIsNeverRead : Obligations.SoundTimerIsNeverRead := by
  unfold Obligations.SoundTimerIsNeverRead
  intro i s t v h
  constructor
  · intro hi
    have hc : SideChange.Spares { ST := fun _ => v } i := { ST := fun ⟨x, hx⟩ => absurd hx (hi x) }
    exact exec_apply_of_spares hc h
  · rintro ⟨x, rfl⟩
    cases h
    rfl

/-- Settles O21: setting the stack spares every instruction but 00EE and 2NNN, which keep the agreement below SP. -/
theorem staleStackEntriesAreNeverRead : Obligations.StaleStackEntriesAreNeverRead := by
  unfold Obligations.StaleStackEntriesAreNeverRead
  intro i s t S' hS' h
  by_cases hi : i = .ret ∨ ∃ a, i = .call a
  · obtain rfl | ⟨a, rfl⟩ := hi
    · exact execRet_of_stackAgreesBelow hS' h
    · exact execCall_of_stackAgreesBelow hS' h
  · have hc : SideChange.Spares { S := fun _ => S' } i := { S := fun hi' => absurd hi' hi }
    obtain ⟨hS, hSP⟩ := exec_stack_of_not_ret_call h hi
    refine ⟨_, exec_apply_of_spares hc h, rfl, ?_⟩
    rw [hS, hSP]
    exact hS'

/-- Settles O22, from the frame of `exec`. -/
theorem stackChangesOnlyByCallAndReturn : Obligations.StackChangesOnlyByCallAndReturn := by
  unfold Obligations.StackChangesOnlyByCallAndReturn
  intro i s t h
  constructor
  · intro hne
    by_contra hi
    obtain ⟨hS, hSP⟩ := exec_stack_of_not_ret_call h hi
    exact hne.elim (· hS) (· hSP)
  · rintro rfl
    exact exec_S_of_ret h

/-- Settles O24: the frame of `exec` leaves ANNN, FX1E, FX29 and the two block transfers, whose update of I is by the
parameter. -/
theorem indexChangesOnlyByItsInstructions : Obligations.IndexChangesOnlyByItsInstructions := by
  unfold Obligations.IndexChangesOnlyByItsInstructions
  intro i s t h hI
  have hf := exec_frame h
  cases i with
  | ldI a => exact .inl ⟨a, rfl⟩
  | addI x => exact .inr (.inl ⟨x, .inl rfl⟩)
  | ldF x => exact .inr (.inl ⟨x, .inr rfl⟩)
  | storeRegs x =>
    rcases execStoreRegs_cases x s with ⟨_, e⟩ | ⟨_, e⟩ <;> cases e.symm.trans h
    · exact absurd rfl hI
    · exact .inr (.inr ⟨fun hm => hI (State.indexAfterBlock_of_unchanged x hm), x, .inl rfl⟩)
  | loadRegs x =>
    cases h
    exact .inr (.inr ⟨fun hm => hI (State.indexAfterBlock_of_unchanged x hm), x, .inr rfl⟩)
  | _ => exact absurd ((congrArg State.I hf).trans rfl) hI

/-- Settles O26, as the contrapositive of the frame of the registers. -/
theorem registersChangeOnlyWhereNamed : Obligations.RegistersChangeOnlyWhereNamed := by
  unfold Obligations.RegistersChangeOnlyWhereNamed
  intro i s t r h hne
  by_contra hr
  exact hne (exec_getV_of_not_mayWrite h hr)

/-- Settles O27: only FX15 and FX18 touch a timer among the instructions, and no port raises one. -/
theorem timersRiseOnlyWhenSet : Obligations.TimersRiseOnlyWhenSet := by
  unfold Obligations.TimersRiseOnlyWhenSet
  intro s t h
  obtain ⟨rest, ⟨i, hi, he⟩ | ⟨m, rfl⟩ | ⟨a, _, hp⟩⟩ := step_effect h
  · constructor <;> intro hlt
    · rcases exec_DT_cases he with ⟨x, rfl⟩ | hDT
      · exact ⟨x, hi⟩
      · exact absurd hlt (by simp [hDT])
    · rcases exec_ST_cases he with ⟨x, rfl⟩ | hST
      · exact ⟨x, hi⟩
      · exact absurd hlt (by simp [hST])
  · exact ⟨fun hlt => absurd hlt (lt_irrefl _), fun hlt => absurd hlt (lt_irrefl _)⟩
  · obtain ⟨hDT, hST⟩ := State.port_timers_le hp
    exact ⟨fun hlt => absurd hlt hDT.not_gt, fun hlt => absurd hlt hST.not_gt⟩

end Sys2Proof.Machine

/-! SUPPORT. What each port answers to a request in range and to one it turns away (60_exceptions.md R217, R224;
70_reset_and_hazards.md R241). -/

namespace Sys2Proof.Machine

variable {s t : State}

theorem State.pressKey_of_le {k : Nat} (h : k ≤ 15) : s.pressKey k = .ok { s with K := s.K ||| (1#16 <<< k) } :=
  if_neg h.not_gt

theorem State.pressKey_of_gt {k : Nat} (h : k > 15) : s.pressKey k = .error .invalidKey :=
  if_pos h

theorem State.releaseKey_of_le {k : Nat} (h : k ≤ 15) : s.releaseKey k = .ok { s with K := s.K &&& ~~~(1#16 <<< k) } :=
  if_neg h.not_gt

theorem State.releaseKey_of_gt {k : Nat} (h : k > 15) : s.releaseKey k = .error .invalidKey :=
  if_pos h

theorem State.load_of_le {bytes : List Byte} (h : bytes.length ≤ Config.maxProgram) :
    s.load bytes =
      .ok (bytes.length, (s.setMem (s.mem.writeBytes Config.programBase.toNat bytes)).enterProgram) :=
  if_neg h.not_gt

theorem State.load_of_gt {bytes : List Byte} (h : bytes.length > Config.maxProgram) :
    s.load bytes = .error .programTooLong :=
  if_pos h

theorem State.port_load_of_ok {bytes : List Byte} {n : Nat} (h : s.load bytes = .ok (n, t)) :
    s.port (.load bytes) = .ok t := by
  rw [State.port, h, Except.map]

theorem State.port_load_of_error {bytes : List Byte} {e : PortReject} (h : s.load bytes = .error e) :
    s.port (.load bytes) = .error e := by
  rw [State.port, h, Except.map]

end Sys2Proof.Machine

/-! SUPPORT. What happens to memory, from the block of one instruction to the step of the machine (20_memory.md R50 to R54):
a store that has passed the font check, a program copied from 0x200, or nothing. -/

namespace Sys2Proof.Machine

variable {i : Instr} {s t : State} {a : AgentStep}

/-- An instruction leaves memory, or stores a block at I that is not empty, lies above the font, and of which every address
is one the instruction is said to store to. -/
theorem exec_mem_cases (h : exec i s = .next t) :
    t.mem = s.mem ∨
    ∃ f n, 0 < n ∧ hitsFont s.I n = false ∧ (∀ k, k < n → storesTo s i (maskAddr (s.I + BitVec.ofNat 16 k))) ∧
      t.mem = s.mem.writeBlock s.I f n := by
  have hf := exec_frame h
  cases i with
  | ldB x =>
    rcases execLdB_cases x s with ⟨_, e⟩ | ⟨hfont, e⟩ <;> cases e.symm.trans h
    · exact .inl rfl
    · exact .inr ⟨_, 3, by decide, hfont, fun k hk => ⟨k, hk, rfl⟩, rfl⟩
  | storeRegs x =>
    rcases execStoreRegs_cases x s with ⟨_, e⟩ | ⟨hfont, e⟩ <;> cases e.symm.trans h
    · exact .inl rfl
    · exact .inr ⟨_, x.val + 1, x.val.succ_pos, hfont, fun k hk => ⟨k, Nat.le_of_lt_succ hk, rfl⟩, rfl⟩
  | _ => exact .inl ((congrArg State.mem hf).trans rfl)

/-- A port leaves memory, or copies a program of at most 3584 bytes to 0x200. -/
theorem State.port_mem_cases (h : s.port a = .ok t) :
    t.mem = s.mem ∨
    ∃ bytes : List Byte, bytes.length ≤ Config.maxProgram ∧
      t.mem = s.mem.writeBytes Config.programBase.toNat bytes := by
  cases a with
  | executionTick => cases h; exact .inl rfl
  | timerTick => cases h; exact .inl rfl
  | pressKey k =>
    rcases le_or_gt k 15 with hk | hk
    · cases (State.pressKey_of_le hk).symm.trans h; exact .inl rfl
    · cases (State.pressKey_of_gt hk).symm.trans h
  | releaseKey k =>
    rcases le_or_gt k 15 with hk | hk
    · cases (State.releaseKey_of_le hk).symm.trans h; exact .inl rfl
    · cases (State.releaseKey_of_gt hk).symm.trans h
  | load bytes =>
    rcases le_or_gt bytes.length Config.maxProgram with hl | hl
    · cases (State.port_load_of_ok (State.load_of_le hl)).symm.trans h
      exact .inr ⟨bytes, hl, rfl⟩
    · cases (State.port_load_of_error (State.load_of_gt hl)).symm.trans h

/-- All that a step of any agent does to memory. -/
theorem step_mem_cases (h : step s = .next t) :
    t.mem = s.mem ∨
    (∃ f n, hitsFont s.I n = false ∧ t.mem = s.mem.writeBlock s.I f n) ∨
    ∃ bytes : List Byte, bytes.length ≤ Config.maxProgram ∧
      t.mem = s.mem.writeBytes Config.programBase.toNat bytes := by
  obtain ⟨rest, ⟨i, _, he⟩ | ⟨m, rfl⟩ | ⟨a, _, hp⟩⟩ := step_effect h
  · exact (exec_mem_cases he).imp_right fun ⟨f, n, _, hfont, _, ht⟩ => .inl ⟨f, n, hfont, ht⟩
  · exact .inl rfl
  · exact (State.port_mem_cases hp).imp_right .inr

/-- A program that a load accepts ends within memory. -/
theorem programBase_add_le {n : Nat} (h : n ≤ Config.maxProgram) : Config.programBase.toNat + n ≤ 4096 :=
  Nat.add_le_add_left h Config.programBase.toNat

theorem fontSize_le_programBase : 0x050 ≤ Config.programBase.toNat := by
  decide

end Sys2Proof.Machine

/-! SUPPORT. The event log is write-only (20_memory.md R59). -/

namespace Sys2Proof.Machine

variable {i : Instr} {s t : State}

/-- The answer of an instruction with another log in its next state. -/
def relog (log : List Event) : Result → Result
  | .next t => .next { t with events := log }
  | r => r

/-- An instruction that emits nothing answers the same whatever the log, with that log kept: its branches, if it has any,
are decided by other elements. -/
theorem exec_withEvents_of_silent (hi : emits s i = []) (log : List Event) :
    exec i { s with events := log } = relog log (exec i s) := by
  cases i with
  | cls | drw | ldStVx => cases hi
  | skp | sknp | ldB | storeRegs =>
    simp only [exec, execSkp, execSknp, execLdB, execStoreRegs, apply_ite (relog log)]
    rfl
  | ret =>
    rcases execRet_cases s with ⟨h0, e⟩ | ⟨h0, e⟩ <;> rw [exec, exec, e]
    · exact execRet_of_empty h0
    · exact execRet_of_used h0
  | call a =>
    rcases execCall_cases a s with ⟨h16, e⟩ | ⟨hlt, e⟩ <;> rw [exec, exec, e]
    · exact execCall_of_full a h16
    · exact execCall_of_room (s := { s with events := log }) a hlt
  | ldVxK x =>
    rcases execLdVxK_cases x s with ⟨h0, e⟩ | ⟨k, hk, e⟩ <;> rw [exec, exec, e]
    · exact execLdVxK_of_idle x h0
    · exact execLdVxK_of_pressed x hk
  | rnd x nn =>
    simp only [exec, execRnd, State.drawByte]
    cases s.randomFeed <;> rfl
  | _ => rfl

/-- Whatever the log, an instruction appends its own events to it and otherwise answers the same. -/
theorem exec_withEvents (h : exec i s = .next t) (log : List Event) :
    exec i { s with events := log } = .next { t with events := log ++ emits s i } := by
  have silent : emits s i = [] → exec i { s with events := log } = .next { t with events := log ++ emits s i } := by
    intro hi
    rw [exec_withEvents_of_silent hi, h, relog, hi, List.append_nil]
  cases i with
  | cls | drw | ldStVx => cases h; rfl
  | _ => exact silent rfl

theorem exec_events (h : exec i s = .next t) : t.events = s.events ++ emits s i := by
  have hs : exec i s = .next { t with events := s.events ++ emits s i } := exec_withEvents h s.events
  have ht : t = { t with events := s.events ++ emits s i } := Host.Outcome.next.inj (h.symm.trans hs)
  exact congrArg State.events ht

end Sys2Proof.Machine

/-! SUPPORT. Which instruction a running engine executes (20_memory.md R53), and the turn of the other agents (R58). -/

namespace Sys2Proof.Machine

variable {s t : State} {a : AgentStep} {tail : List AgentStep}

theorem State.nextInstr_of_decode {i : Instr} {rest : List Byte} (hpc : Fetchable s.PC)
    (h : decode [s.mem.read s.PC.toNat, s.mem.read (s.PC.toNat + 1)] = .ok (i, rest)) : s.nextInstr = .ok i := by
  simp [State.nextInstr, (validPC_iff s.PC).2 hpc, State.fetchBytes_eq hpc, h]

theorem step_of_scheduled (hs : s.schedule = a :: tail) : step s = deliver a { s with schedule := tail } := by
  simp [step, turn, hs]

theorem step_of_accepted (hs : s.schedule = a :: tail) (ha : a ≠ .executionTick)
    (hp : State.port { s with schedule := tail } a = .ok t) : step s = .next t :=
  (step_of_scheduled hs).trans (deliver_of_ok ha hp)

theorem step_of_rejected {e : PortReject} (hs : s.schedule = a :: tail) (ha : a ≠ .executionTick)
    (hp : State.port { s with schedule := tail } a = .error e) : step s = .next { s with schedule := tail } :=
  (step_of_scheduled hs).trans (deliver_of_error ha hp)

end Sys2Proof.Machine

/-! The statements of the family 20_memory.md, settled. -/

namespace Sys2Proof.Machine

/-- Settles O14: both block stores mask their addresses, and a program that a load accepts ends at 0xFFF. -/
theorem everyStepKeepsMemoryCanonical : Obligations.EveryStepKeepsMemoryCanonical := by
  unfold Obligations.EveryStepKeepsMemoryCanonical MemoryCanonical
  intro s t hs h
  rcases step_mem_cases h with ht | ⟨f, n, _, ht⟩ | ⟨bytes, hl, ht⟩ <;> rw [ht]
  · exact hs
  · exact Memory.wf_writeBlock hs s.I f n
  · exact Memory.wf_writeBytes hs bytes (programBase_add_le hl)

/-- Settles O16: a block store has passed the font check, and a load copies to 0x200 and above. -/
theorem noStepChangesTheFont : Obligations.NoStepChangesTheFont := by
  unfold Obligations.NoStepChangesTheFont
  intro s t h a ha
  rcases step_mem_cases h with ht | ⟨f, n, hfont, ht⟩ | ⟨bytes, _, ht⟩ <;> rw [ht]
  · exact Memory.read_writeBlock_font s.mem s.I f hfont ha
  · exact Memory.read_writeBytes_other s.mem bytes (.inl (ha.trans_le fontSize_le_programBase))

/-- Settles O23: the log that an instruction meets is one of all the logs it may be run with. -/
theorem eventLogIsAppendedAndNeverRead : Obligations.EventLogIsAppendedAndNeverRead := by
  unfold Obligations.EventLogIsAppendedAndNeverRead
  intro i s t log h
  exact ⟨exec_events h, exec_withEvents h log⟩

/-- Settles O25: outside the block an instruction stores every byte reads as before, and a block is not empty. -/
theorem memoryChangesOnlyWhereStored : Obligations.MemoryChangesOnlyWhereStored := by
  unfold Obligations.MemoryChangesOnlyWhereStored
  intro i s t h
  rcases exec_mem_cases h with ht | ⟨f, n, hn, _, hst, ht⟩
  · exact ⟨fun a hne => absurd (by rw [ht]) hne, fun _ => ht⟩
  · constructor
    · intro a hne
      by_contra ha
      have hout : ∀ k, k < n → a ≠ maskAddr (s.I + BitVec.ofNat 16 k) := fun k hk e => ha (e ▸ hst k hk)
      exact hne (by rw [ht, Memory.read_writeBlock_other s.mem s.I f hout])
    · exact fun hnone => absurd (hst 0 hn) (hnone _)

/-- Settles O7: moving the schedule on changes neither PC nor the bytes fetched there. -/
theorem stepRunsTheDecodedInstruction : Obligations.StepRunsTheDecodedInstruction := by
  unfold Obligations.StepRunsTheDecodedInstruction
  intro s i rest hm hpc hd
  have hi : s.nextInstr = .ok i := State.nextInstr_of_decode hpc hd
  constructor
  · intro hs
    rw [step_of_running hm hs, executionStep_of_ok hi]
  · intro tail hs
    calc step s = executionTick { s with schedule := tail } := step_of_tick hs
      _ = executionStep { s with schedule := tail } := executionTick_of_running hm
      _ = exec i { s with schedule := tail } := executionStep_of_ok hi

/-- Settles O12, port by port: a request in range is accepted with the operation's own result, another is turned away. -/
theorem agentsTakeTheirTurn : Obligations.AgentsTakeTheirTurn := by
  unfold Obligations.AgentsTakeTheirTurn
  intro s tail
  refine ⟨?timer, ?press, ?release, ?load⟩
  case timer => exact fun hs => step_of_accepted hs (by simp) rfl
  case press =>
    intro k hs
    refine ⟨fun hk => ?_, fun hk => ?_⟩
    · exact ⟨_, State.pressKey_of_le hk, step_of_accepted hs (by simp) (State.pressKey_of_le hk)⟩
    · exact step_of_rejected hs (by simp) (State.pressKey_of_gt hk)
  case release =>
    intro k hs
    refine ⟨fun hk => ?_, fun hk => ?_⟩
    · exact ⟨_, State.releaseKey_of_le hk, step_of_accepted hs (by simp) (State.releaseKey_of_le hk)⟩
    · exact step_of_rejected hs (by simp) (State.releaseKey_of_gt hk)
  case load =>
    intro bytes hs
    refine ⟨fun hl => ?_, fun hl => ?_⟩
    · have hok := State.load_of_le (s := { s with schedule := tail }) hl
      exact ⟨_, hok, step_of_accepted hs (by simp) (State.port_load_of_ok hok)⟩
    · exact step_of_rejected hs (by simp) (State.port_load_of_error (State.load_of_gt hl))

end Sys2Proof.Machine

/-! SUPPORT. The view of a word, and the three operand forms NNN, XNN and XYN (30_encoding.md R72, R74): the view of a
form's word holds its operands, and any of the forms rebuilds a word from its view. -/

namespace Sys2Proof.Machine

/-- The view of a word, from its high and its low byte (R70, R72). -/
def wordFields (w : Word) : Fields := decodeFields (hiByte w) (loByte w)

theorem wordFields_joinBytes (hi lo : Byte) : wordFields (joinBytes hi lo) = decodeFields hi lo := by
  simp [wordFields]

@[simp] theorem wordFields_wordNNN (c : Nibble) (a : Addr) : wordFields (wordNNN c a) =
    ⟨c, a.extractLsb' 8 4, hiNib (a.extractLsb' 0 8), loNib (a.extractLsb' 0 8), a.extractLsb' 0 8, a⟩ := by
  simp [wordNNN, wordFields_joinBytes, decodeFields]

@[simp] theorem wordFields_wordXNN (c : Nibble) (x : Reg) (b : Byte) : wordFields (wordXNN c x b) =
    ⟨c, regNib x, hiNib b, loNib b, b, joinAddr (regNib x) b⟩ := by
  simp [wordXNN, wordFields_joinBytes, decodeFields]

@[simp] theorem wordFields_wordXYN (c : Nibble) (x y : Reg) (n : Nibble) : wordFields (wordXYN c x y n) =
    ⟨c, regNib x, regNib y, n, joinNibbles (regNib y) n, joinAddr (regNib x) (joinNibbles (regNib y) n)⟩ := by
  simp [wordXYN, wordFields_joinBytes, decodeFields]

theorem wordNNN_wordFields (w : Word) : wordNNN (wordFields w).code (wordFields w).nnn = w := by
  simp [wordNNN, wordFields, decodeFields]

theorem wordXNN_wordFields (w : Word) :
    wordXNN (wordFields w).code (nibReg (wordFields w).x) (wordFields w).nn = w := by
  simp [wordXNN, wordFields, decodeFields]

theorem wordXYN_wordFields (w : Word) :
    wordXYN (wordFields w).code (nibReg (wordFields w).x) (nibReg (wordFields w).y) (wordFields w).n = w := by
  simp [wordXYN, wordFields, decodeFields]

/-- A bit range of a bit range is a bit range. -/
theorem extractLsb'_extractLsb' {w k l m n : Nat} (v : BitVec w) (h : m + n ≤ l) :
    (v.extractLsb' k l).extractLsb' m n = v.extractLsb' (k + m) n := by
  apply BitVec.eq_of_getLsbD_eq
  intro i hi
  have hl : m + i < l := by omega
  simp [hi, hl, Nat.add_assoc]

theorem wordFields_code (w : Word) : (wordFields w).code = w.extractLsb' 12 4 :=
  extractLsb'_extractLsb' w (by decide)

theorem wordFields_x (w : Word) : (wordFields w).x = w.extractLsb' 8 4 :=
  extractLsb'_extractLsb' w (by decide)

theorem wordFields_y (w : Word) : (wordFields w).y = w.extractLsb' 4 4 :=
  extractLsb'_extractLsb' w (by decide)

theorem wordFields_n (w : Word) : (wordFields w).n = w.extractLsb' 0 4 :=
  extractLsb'_extractLsb' w (by decide)

theorem wordFields_nn (w : Word) : (wordFields w).nn = w.extractLsb' 0 8 := rfl

theorem wordFields_nnn (w : Word) : (wordFields w).nnn = w.extractLsb' 0 12 := by
  calc (wordFields w).nnn = (wordFields w).x ++ loByte w := rfl
    _ = w.extractLsb' 8 4 ++ w.extractLsb' 0 8 := by rw [wordFields_x, loByte]
    _ = w.extractLsb' 0 12 := BitVec.extractLsb'_append_extractLsb'_eq_extractLsb' rfl

/-- The overlapping fields of a decoded view agree. -/
theorem decodeFields_wellFormed (hi lo : Byte) : (decodeFields hi lo).wellFormed = true := by
  simp [Fields.wellFormed, Fields.nnnAgrees, Fields.nnAgrees, decodeFields]

end Sys2Proof.Machine

/-! SUPPORT. `classify` and `encode` are inverse to each other on the views of words (30_encoding.md R75 to R79). -/

namespace Sys2Proof.Machine

variable {f : Fields} {i : Instr} {w : Word}

/-- Dispatch undoes the encoder: the code, and in a family the sub-opcode, select the constructor, and each operand is
read from the field it was written to. -/
theorem classify_encode (i : Instr) : classify (wordFields (encode i)) = .ok i := by
  cases i with
  | cls | ret => rfl
  | jp | call | ldI | jpV0 => rw [encode, wordFields_wordNNN]; rfl
  | seByte | sneByte | ldByte | addByte | rnd => simp [encode, classify]
  | seReg | sneReg | drw => simp [encode, classify]
  | ldReg | orReg | andReg | xorReg | addReg | sub | shr | subn | shl => simp [encode, classify, classify8]
  | skp | sknp => simp [encode, classify, classifyE]
  | ldVxDt | ldVxK | ldDtVx | ldStVx | addI | ldF | ldB | storeRegs | loadRegs => simp [encode, classify, classifyF]

theorem encode_of_classify0 (h : classify0 f = .ok i) : encode i = wordNNN 0x0#4 f.nnn := by
  unfold classify0 at h
  split at h
  · next hn => cases h; rw [hn]; rfl
  · split at h
    · next hn => cases h; rw [hn]; rfl
    · cases h

theorem encode_of_classify8 {x y : Reg} {n : Nibble} (h : classify8 x y n = .ok i) : encode i = wordXYN 0x8#4 x y n := by
  unfold classify8 at h
  split at h <;> cases h <;> rfl

theorem encode_of_classifyE {x : Reg} {nn : Byte} (h : classifyE x nn = .ok i) : encode i = wordXNN 0xE#4 x nn := by
  unfold classifyE at h
  split at h <;> cases h <;> rfl

theorem encode_of_classifyF {x : Reg} {nn : Byte} (h : classifyF x nn = .ok i) : encode i = wordXNN 0xF#4 x nn := by
  unfold classifyF at h
  split at h <;> cases h <;> rfl

/-- The encoding of a selected instruction is one of the three words that the view's fields make (arm `h_k` of the split is
code `k - 1`). -/
theorem encode_of_classify (h : classify f = .ok i) :
    encode i = wordNNN f.code f.nnn ∨ encode i = wordXNN f.code (nibReg f.x) f.nn ∨
      encode i = wordXYN f.code (nibReg f.x) (nibReg f.y) f.n := by
  unfold classify at h
  split at h
  case h_1 hc => rw [hc]; exact .inl (encode_of_classify0 h)
  case h_2 hc | h_3 hc | h_11 hc | h_12 hc => cases h; rw [hc]; exact .inl rfl
  case h_4 hc | h_5 hc | h_7 hc | h_8 hc | h_13 hc => cases h; rw [hc]; exact .inr (.inl rfl)
  case h_6 hc | h_10 hc =>
    split at h
    · next hn => cases h; rw [hc, hn]; exact .inr (.inr rfl)
    · cases h
  case h_9 hc => rw [hc]; exact .inr (.inr (encode_of_classify8 h))
  case h_14 hc => cases h; rw [hc, encode, regNib_nibReg]; exact .inr (.inr rfl)
  case h_15 hc => rw [hc]; exact .inr (.inl (encode_of_classifyE h))
  case h_16 hc => rw [hc]; exact .inr (.inl (encode_of_classifyF h))
  case h_17 => cases h

theorem classify_wordFields_eq_ok_iff : classify (wordFields w) = .ok i ↔ encode i = w := by
  constructor
  · intro h
    rcases encode_of_classify h with he | he | he
    · exact he.trans (wordNNN_wordFields w)
    · exact he.trans (wordXNN_wordFields w)
    · exact he.trans (wordXYN_wordFields w)
  · rintro rfl
    exact classify_encode i

end Sys2Proof.Machine

/-! SUPPORT. Which bytes decode to which instruction (30_encoding.md R70). -/

namespace Sys2Proof.Machine

variable {hi lo : Byte} {rest rest' : List Byte} {i : Instr} {w : Word}

theorem decode_cons_eq_ok_iff : decode (hi :: lo :: rest) = .ok (i, rest') ↔
    encode i = joinBytes hi lo ∧ rest' = rest := by
  rw [← classify_wordFields_eq_ok_iff, wordFields_joinBytes, decode]
  cases classify (decodeFields hi lo) <;> simp [eq_comm]

theorem decodeWord_eq_some_iff : decodeWord w = some i ↔ encode i = w := by
  have hd : decode (wordBytes w) = .ok (i, []) ↔ encode i = w := by
    rw [wordBytes, decode_cons_eq_ok_iff, joinBytes_bytes, and_iff_left rfl]
  rw [← hd, decodeWord, wordBytes]
  rcases decode_pair_cases (hiByte w) (loByte w) with ⟨j, h⟩ | h <;> simp [h]

end Sys2Proof.Machine

/-! SUPPORT. Which views dispatch rejects, family by family (30_encoding.md R76 to R82). -/

namespace Sys2Proof.Machine

variable {f : Fields} {w : Word}

theorem classify0_eq_unknown_iff :
    classify0 f = .error .unknownInstruction ↔ f.nnn ≠ 0x0E0#12 ∧ f.nnn ≠ 0x0EE#12 := by
  unfold classify0
  split_ifs with h h' <;> simp [*]

theorem classify8_eq_unknown_iff {x y : Reg} {n : Nibble} : classify8 x y n = .error .unknownInstruction ↔
    n ∈ [0x8#4, 0x9#4, 0xA#4, 0xB#4, 0xC#4, 0xD#4, 0xF#4] := by
  unfold classify8
  split
  case h_10 => revert n; decide
  all_goals simp

theorem classifyE_eq_unknown_iff {x : Reg} {nn : Byte} :
    classifyE x nn = .error .unknownInstruction ↔ nn ∉ [0x9E#8, 0xA1#8] := by
  unfold classifyE
  split <;> simp_all

theorem classifyF_eq_unknown_iff {x : Reg} {nn : Byte} : classifyF x nn = .error .unknownInstruction ↔
    nn ∉ [0x07#8, 0x0A#8, 0x15#8, 0x18#8, 0x1E#8, 0x29#8, 0x33#8, 0x55#8, 0x65#8] := by
  unfold classifyF
  split <;> simp_all

/-- The codes that dispatch does not accept outright are those of families 0, 5, 8, 9, E and F (arm `h_k` of the split is
code `k - 1`). -/
theorem classify_eq_unknown_iff : classify f = .error .unknownInstruction ↔
    (f.code = 0x0#4 ∧ f.nnn ≠ 0x0E0#12 ∧ f.nnn ≠ 0x0EE#12) ∨
    ((f.code = 0x5#4 ∨ f.code = 0x9#4) ∧ f.n ≠ 0x0#4) ∨
    (f.code = 0x8#4 ∧ f.n ∈ [0x8#4, 0x9#4, 0xA#4, 0xB#4, 0xC#4, 0xD#4, 0xF#4]) ∨
    (f.code = 0xE#4 ∧ f.nn ∉ [0x9E#8, 0xA1#8]) ∨
    (f.code = 0xF#4 ∧ f.nn ∉ [0x07#8, 0x0A#8, 0x15#8, 0x18#8, 0x1E#8, 0x29#8, 0x33#8, 0x55#8, 0x65#8]) := by
  unfold classify
  split
  case h_1 hc => simp [hc, classify0_eq_unknown_iff]
  case h_6 hc | h_10 hc => simp [hc]
  case h_9 hc => simp [hc, classify8_eq_unknown_iff]
  case h_15 hc => simp [hc, classifyE_eq_unknown_iff]
  case h_16 hc => simp [hc, classifyF_eq_unknown_iff]
  case h_17 =>
    exfalso
    generalize f.code = c at *
    revert c
    decide
  all_goals simp [*]

/-- In family 0 the address field is the whole word. -/
theorem wordFields_nnn_eq_iff_of_code_zero (hc : (wordFields w).code = 0x0#4) (a : Addr) :
    (wordFields w).nnn = a ↔ w = wordNNN 0x0#4 a := by
  constructor
  · rintro rfl
    rw [← hc, wordNNN_wordFields]
  · rintro rfl
    rw [wordFields_wordNNN]

theorem decode_wordBytes_eq_unknown_iff :
    decode (wordBytes w) = .error .unknownInstruction ↔ classify (wordFields w) = .error .unknownInstruction := by
  rw [wordBytes, decode, wordFields]
  cases classify (decodeFields (hiByte w) (loByte w)) <;> simp

end Sys2Proof.Machine

/-! SUPPORT. The rows of the opcode table and the encoder (30_encoding.md R75): every encoding lies in its instruction's
row, and every word that a row matches is the encoding of an instruction of that row. -/

namespace Sys2Proof.Machine

open Laws.EncodesInItsRow

variable {w : Word} {c n : Nibble} {m : String}

theorem encode_mem_row (i : Instr) : ∃ r ∈ opcodeTable, r.mnemonic = i.mnemonic ∧ encode i &&& r.mask = r.pattern :=
  Instr.casesOn (motive := Statement) i cls ret jp call seByte sneByte seReg ldByte addByte ldReg orReg andReg xorReg
    addReg sub shr subn shl sneReg ldI jpV0 rnd drw skp sknp ldVxDt ldVxK ldDtVx ldStVx addI ldF ldB storeRegs loadRegs

theorem opcodeTable_mnemonic_inj : ∀ r ∈ opcodeTable, ∀ r' ∈ opcodeTable, r.mnemonic = r'.mnemonic → r = r' := by
  decide

/-- What the mask 0xF000 keeps of a word is its code. -/
theorem code_of_and_mask (h : w &&& 0xF000#16 = joinBytes (joinNibbles c 0#4) 0#8) : (wordFields w).code = c := by
  have hw := mask_nnn (wordFields w).code (wordFields w).nnn
  rw [wordNNN_wordFields, h] at hw
  simpa using congrArg (hiNib ∘ hiByte) hw.symm

/-- What the mask 0xF0FF keeps of a word is its code and its low byte. -/
theorem code_nn_of_and_mask {b : Byte} (h : w &&& 0xF0FF#16 = joinBytes (joinNibbles c 0#4) b) :
    (wordFields w).code = c ∧ (wordFields w).nn = b := by
  have hw := mask_xnn_sub (wordFields w).code (nibReg (wordFields w).x) (wordFields w).nn
  rw [wordXNN_wordFields, h] at hw
  exact ⟨by simpa using congrArg (hiNib ∘ hiByte) hw.symm, by simpa using congrArg loByte hw.symm⟩

/-- What the mask 0xF00F keeps of a word is its code and its `n`. -/
theorem code_n_of_and_mask (h : w &&& 0xF00F#16 = joinBytes (joinNibbles c 0#4) (joinNibbles 0#4 n)) :
    (wordFields w).code = c ∧ (wordFields w).n = n := by
  have hw := mask_xyn (wordFields w).code (nibReg (wordFields w).x) (nibReg (wordFields w).y) (wordFields w).n
  rw [wordXYN_wordFields, h] at hw
  exact ⟨by simpa using congrArg (hiNib ∘ hiByte) hw.symm, by simpa using congrArg (loNib ∘ loByte) hw.symm⟩

/-- The encoder reaches every word of the row. -/
def RowEncoded (r : TableRow) : Prop :=
  ∀ w : Word, w &&& r.mask = r.pattern → ∃ i : Instr, encode i = w ∧ i.mnemonic = r.mnemonic

/-- A row that matches one word. -/
theorem rowEncoded_word (i : Instr) : RowEncoded ⟨i.mnemonic, encode i, 0xFFFF#16⟩ := by
  intro w hw
  have hall : w &&& 0xFFFF#16 = w := BitVec.and_allOnes
  exact ⟨i, hw.symm.trans hall, rfl⟩

theorem rowEncoded_nnn (c : Nibble) (mk : Addr → Instr) (he : ∀ a, encode (mk a) = wordNNN c a := by exact fun _ => rfl)
    (hm : ∀ a, (mk a).mnemonic = m := by exact fun _ => rfl) :
    RowEncoded ⟨m, joinBytes (joinNibbles c 0#4) 0#8, 0xF000#16⟩ := by
  intro w hw
  refine ⟨mk (wordFields w).nnn, ?_, hm _⟩
  rw [he, ← code_of_and_mask hw, wordNNN_wordFields]

theorem rowEncoded_xnn (c : Nibble) (mk : Reg → Byte → Instr)
    (he : ∀ x b, encode (mk x b) = wordXNN c x b := by exact fun _ _ => rfl)
    (hm : ∀ x b, (mk x b).mnemonic = m := by exact fun _ _ => rfl) :
    RowEncoded ⟨m, joinBytes (joinNibbles c 0#4) 0#8, 0xF000#16⟩ := by
  intro w hw
  refine ⟨mk (nibReg (wordFields w).x) (wordFields w).nn, ?_, hm _ _⟩
  rw [he, ← code_of_and_mask hw, wordXNN_wordFields]

theorem rowEncoded_xnn_sub (c : Nibble) (b : Byte) (mk : Reg → Instr)
    (he : ∀ x, encode (mk x) = wordXNN c x b := by exact fun _ => rfl)
    (hm : ∀ x, (mk x).mnemonic = m := by exact fun _ => rfl) :
    RowEncoded ⟨m, joinBytes (joinNibbles c 0#4) b, 0xF0FF#16⟩ := by
  intro w hw
  obtain ⟨hc, hb⟩ := code_nn_of_and_mask hw
  refine ⟨mk (nibReg (wordFields w).x), ?_, hm _⟩
  rw [he, ← hc, ← hb, wordXNN_wordFields]

theorem rowEncoded_xyn (c n : Nibble) (mk : Reg → Reg → Instr)
    (he : ∀ x y, encode (mk x y) = wordXYN c x y n := by exact fun _ _ => rfl)
    (hm : ∀ x y, (mk x y).mnemonic = m := by exact fun _ _ => rfl) :
    RowEncoded ⟨m, joinBytes (joinNibbles c 0#4) (joinNibbles 0#4 n), 0xF00F#16⟩ := by
  intro w hw
  obtain ⟨hc, hn⟩ := code_n_of_and_mask hw
  refine ⟨mk (nibReg (wordFields w).x) (nibReg (wordFields w).y), ?_, hm _ _⟩
  rw [he, ← hc, ← hn, wordXYN_wordFields]

theorem rowEncoded_drw : RowEncoded ⟨"DXYN", 0xD000#16, 0xF000#16⟩ := by
  intro w hw
  have hc : (wordFields w).code = 0xD#4 := code_of_and_mask hw
  refine ⟨.drw (nibReg (wordFields w).x) (nibReg (wordFields w).y) (nibReg (wordFields w).n), ?_, rfl⟩
  rw [encode, regNib_nibReg, ← hc, wordXYN_wordFields]

theorem opcodeTableLow_encoded : List.Forall RowEncoded opcodeTableLow :=
  ⟨rowEncoded_word .cls, rowEncoded_word .ret, rowEncoded_nnn 0x1#4 .jp, rowEncoded_nnn 0x2#4 .call,
    rowEncoded_xnn 0x3#4 .seByte, rowEncoded_xnn 0x4#4 .sneByte, rowEncoded_xyn 0x5#4 0x0#4 .seReg,
    rowEncoded_xnn 0x6#4 .ldByte, rowEncoded_xnn 0x7#4 .addByte⟩

theorem opcodeTable8_encoded : List.Forall RowEncoded opcodeTable8 :=
  ⟨rowEncoded_xyn 0x8#4 0x0#4 .ldReg, rowEncoded_xyn 0x8#4 0x1#4 .orReg, rowEncoded_xyn 0x8#4 0x2#4 .andReg,
    rowEncoded_xyn 0x8#4 0x3#4 .xorReg, rowEncoded_xyn 0x8#4 0x4#4 .addReg, rowEncoded_xyn 0x8#4 0x5#4 .sub,
    rowEncoded_xyn 0x8#4 0x6#4 .shr, rowEncoded_xyn 0x8#4 0x7#4 .subn, rowEncoded_xyn 0x8#4 0xE#4 .shl⟩

theorem opcodeTableHigh_encoded : List.Forall RowEncoded opcodeTableHigh :=
  ⟨rowEncoded_xyn 0x9#4 0x0#4 .sneReg, rowEncoded_nnn 0xA#4 .ldI, rowEncoded_nnn 0xB#4 .jpV0, rowEncoded_xnn 0xC#4 .rnd,
    rowEncoded_drw, rowEncoded_xnn_sub 0xE#4 0x9E#8 .skp, rowEncoded_xnn_sub 0xE#4 0xA1#8 .sknp,
    rowEncoded_xnn_sub 0xF#4 0x07#8 .ldVxDt, rowEncoded_xnn_sub 0xF#4 0x0A#8 .ldVxK,
    rowEncoded_xnn_sub 0xF#4 0x15#8 .ldDtVx, rowEncoded_xnn_sub 0xF#4 0x18#8 .ldStVx,
    rowEncoded_xnn_sub 0xF#4 0x1E#8 .addI, rowEncoded_xnn_sub 0xF#4 0x29#8 .ldF, rowEncoded_xnn_sub 0xF#4 0x33#8 .ldB,
    rowEncoded_xnn_sub 0xF#4 0x55#8 .storeRegs, rowEncoded_xnn_sub 0xF#4 0x65#8 .loadRegs⟩

theorem opcodeTable_encoded : ∀ r ∈ opcodeTable, RowEncoded r := by
  intro r hr
  rw [opcodeTable, List.mem_append, List.mem_append] at hr
  obtain (hr | hr) | hr := hr
  · exact List.forall_iff_forall_mem.1 opcodeTableLow_encoded r hr
  · exact List.forall_iff_forall_mem.1 opcodeTable8_encoded r hr
  · exact List.forall_iff_forall_mem.1 opcodeTableHigh_encoded r hr

end Sys2Proof.Machine

/-! The statements of the family 30_encoding.md, settled. -/

namespace Sys2Proof.Machine

/-- Settles O1: dispatch undoes the encoder, and the decoder consumes the word's two bytes. -/
theorem encodeThenDecodeIsIdentity : Obligations.EncodeThenDecodeIsIdentity := by
  unfold Obligations.EncodeThenDecodeIsIdentity
  intro i rest
  have hw : encode i = joinBytes (hiByte (encode i)) (loByte (encode i)) := (joinBytes_bytes _).symm
  exact decode_cons_eq_ok_iff.2 ⟨hw, rfl⟩

/-- Settles O2: an instruction selected by the fields of a word has that word as its encoding. -/
theorem decodedBytesAreTheEncoding : Obligations.DecodedBytesAreTheEncoding := by
  unfold Obligations.DecodedBytesAreTheEncoding
  intro hi lo rest i rest' h
  obtain ⟨hw, hrest⟩ := decode_cons_eq_ok_iff.1 h
  exact ⟨by rw [encodeBytes, hw, wordBytes_joinBytes], hrest⟩

/-- Settles O4: a row's words are encodings of its instructions, and the encoding of an instruction lies in the one row
with its mnemonic. -/
theorem opcodeTableSelectsTheInstruction : Obligations.OpcodeTableSelectsTheInstruction := by
  unfold Obligations.OpcodeTableSelectsTheInstruction
  intro w r hr
  constructor
  · intro hw
    obtain ⟨i, he, hm⟩ := opcodeTable_encoded r hr w hw
    exact ⟨i, decodeWord_eq_some_iff.2 he, hm⟩
  · rintro ⟨i, hd, hm⟩
    obtain ⟨r', hr', hm', hw⟩ := encode_mem_row i
    obtain rfl := opcodeTable_mnemonic_inj r' hr' r hr (hm'.trans hm)
    rwa [decodeWord_eq_some_iff.1 hd] at hw

/-- Settles O5: the views that dispatch rejects, with each field read as its bit range; in family 0 a word is its address
field. -/
theorem unlistedWordsAreUnknown : Obligations.UnlistedWordsAreUnknown := by
  unfold Obligations.UnlistedWordsAreUnknown
  intro w
  have h0 : (wordFields w).code = 0x0#4 ∧ (wordFields w).nnn ≠ 0x0E0#12 ∧ (wordFields w).nnn ≠ 0x0EE#12 ↔
      (wordFields w).code = 0x0#4 ∧ w ≠ 0x00E0#16 ∧ w ≠ 0x00EE#16 :=
    and_congr_right fun hc => and_congr (wordFields_nnn_eq_iff_of_code_zero hc 0x0E0#12).not
      (wordFields_nnn_eq_iff_of_code_zero hc 0x0EE#12).not
  rw [decode_wordBytes_eq_unknown_iff, classify_eq_unknown_iff, h0, wordFields_code, wordFields_n, wordFields_nn]

/-- Settles O3, field by field. -/
theorem decoderReadsTheFieldsOfTheWord : Obligations.DecoderReadsTheFieldsOfTheWord := by
  unfold Obligations.DecoderReadsTheFieldsOfTheWord
  intro w
  exact ⟨wordFields_code w, wordFields_x w, wordFields_y w, wordFields_n w, wordFields_nn w, wordFields_nnn w,
    decodeFields_wellFormed _ _⟩

/-- Settles O6, by running the decoder on the fifteen words. -/
theorem wordsOfTheVectorsDecode : Obligations.WordsOfTheVectorsDecode := by
  unfold Obligations.WordsOfTheVectorsDecode
  decide

end Sys2Proof.Machine

/-! SUPPORT. What 00E0 and DXYN do to the screen, pixel by pixel (40_display_sprite.md R100 to R105; 10_state.md R29). -/

namespace Sys2Proof.Machine

variable {s t : State} {x y : Reg}

theorem State.originX_eq (s : State) (x : Reg) : s.originX x = (s.getV x).toNat % 64 := by
  rw [State.originX, BitVec.toNat_and]
  exact Nat.and_two_pow_sub_one_eq_mod _ 6

theorem State.originY_eq (s : State) (y : Reg) : s.originY y = (s.getV y).toNat % 32 := by
  rw [State.originY, BitVec.toNat_and]
  exact Nat.and_two_pow_sub_one_eq_mod _ 5

@[simp] theorem flagByte_eq_one_iff (b : Bool) : flagByte b = 1#8 ↔ b = true := by cases b <;> decide

@[simp] theorem flagByte_eq_zero_iff (b : Bool) : flagByte b = 0#8 ↔ b = false := by cases b <;> decide

/-- Screens with the same pixels are equal: column c is bit 63 - c of its row (R29). -/
theorem framebuffer_ext {fb fb' : Vector Row 32} (h : ∀ r c, pixel fb r c = true ↔ pixel fb' r c = true) : fb = fb' := by
  ext r hr i hi
  have hp := Bool.eq_iff_iff.2 (h ⟨r, hr⟩ ⟨63 - i, by omega⟩)
  have hc : 63 - (63 - i) = i := by omega
  simpa only [pixel, hc, BitVec.getLsbD_eq_getElem hi] using hp

/-- The sprite pixels of row `r` are the set bits of the row mask of the one sprite row that lands there (R102). -/
theorem spriteLit_iff {n : Nat} (hn : n ≤ 32) (r : Fin 32) (c : Fin 64) :
    SpriteLit s (s.getV x) (s.getV y) n r c ↔ (r.val + 32 - s.originY y) % 32 < n ∧
      (rowMask (s.memRead (s.I + BitVec.ofNat 16 ((r.val + 32 - s.originY y) % 32))) (s.originX x)).getLsbD (63 - c.val)
        = true := by
  have hr := r.isLt
  rw [rowMask_column _ (by rw [State.originX_eq]; omega) c.isLt, State.originX_eq, State.originY_eq]
  constructor
  · rintro ⟨k, hk, j, hj, hrow, hcol, hb⟩
    have hland : (r.val + 32 - (s.getV y).toNat % 32) % 32 = k := by omega
    rw [hland]
    exact ⟨hk, j, hj, by omega, hb⟩
  · rintro ⟨hk, j, hj, hcol, hb⟩
    exact ⟨_, hk, j, hj, by omega, by omega, hb⟩

/-- Drawing XORs the sprite onto the screen (R104). -/
theorem pixel_drawRows {n : Nat} (hn : n ≤ 32) (r : Fin 32) (c : Fin 64) :
    pixel (drawRows s.mem s.I (s.originX x) (s.originY y) s.FB n).1 r c = true ↔
      ¬(pixel s.FB r c = true ↔ SpriteLit s (s.getV x) (s.getV y) n r c) := by
  have hy : s.originY y < 32 := by rw [State.originY_eq]; omega
  rw [spriteLit_iff hn, pixel, pixel, drawRows_row _ _ _ hy _ hn r.isLt]
  by_cases h : (r.val + 32 - s.originY y) % 32 < n
  · simp [h, State.memRead, BitVec.getLsbD_xor]
  · simp [h]

/-- Drawing collides when a lit pixel meets a sprite pixel (R103). -/
theorem drawRows_collides_iff_pixel {n : Nat} (hn : n ≤ 32) :
    (drawRows s.mem s.I (s.originX x) (s.originY y) s.FB n).2 = true ↔
      ∃ r c, pixel s.FB r c = true ∧ SpriteLit s (s.getV x) (s.getV y) n r c := by
  have hy : s.originY y < 32 := by rw [State.originY_eq]; omega
  rw [drawRows_collides _ _ _ hy _ hn]
  simp only [spriteLit_iff hn, row_and_ne_zero_iff]
  constructor
  · rintro ⟨r, hr, hk, c, hc, hlit, hmask⟩
    exact ⟨⟨r, hr⟩, ⟨c, hc⟩, hlit, hk, hmask⟩
  · rintro ⟨r, c, hlit, hk, hmask⟩
    exact ⟨r, r.isLt, hk, c, c.isLt, hlit, hmask⟩

theorem pixel_of_exec_drw {n : Fin 16} (h : exec (.drw x y n) s = .next t) (r : Fin 32) (c : Fin 64) :
    pixel t.FB r c = true ↔ ¬(pixel s.FB r c = true ↔ SpriteLit s (s.getV x) (s.getV y) n.val r c) := by
  cases h
  exact pixel_drawRows (by omega) r c

/-- VF after DXYN is the collision flag, also when x or y is F: it is written after the rows (R105). -/
theorem getV_15_of_exec_drw {n : Fin 16} (h : exec (.drw x y n) s = .next t) :
    t.getV 15 = flagByte (drawRows s.mem s.I (s.originX x) (s.originY y) s.FB n.val).2 := by
  cases h
  exact State.getV_setV_self _ 15 _

theorem getV_15_eq_one_iff_of_exec_drw {n : Fin 16} (h : exec (.drw x y n) s = .next t) :
    t.getV 15 = 1#8 ↔ ∃ r c, pixel s.FB r c = true ∧ SpriteLit s (s.getV x) (s.getV y) n.val r c := by
  rw [getV_15_of_exec_drw h, flagByte_eq_one_iff, drawRows_collides_iff_pixel (by omega)]

theorem getV_15_eq_zero_iff_of_exec_drw {n : Fin 16} (h : exec (.drw x y n) s = .next t) :
    t.getV 15 = 0#8 ↔ ¬∃ r c, pixel s.FB r c = true ∧ SpriteLit s (s.getV x) (s.getV y) n.val r c := by
  rw [getV_15_of_exec_drw h, flagByte_eq_zero_iff, ← Bool.not_eq_true, drawRows_collides_iff_pixel (by omega)]

/-- A draw writes no memory and leaves I, so after it the same coordinates name the same sprite pixels. -/
theorem spriteLit_of_exec_drw {n : Fin 16} (h : exec (.drw x y n) s = .next t) (vx vy : Byte) (m : Nat) (r : Fin 32)
    (c : Fin 64) : SpriteLit t vx vy m r c ↔ SpriteLit s vx vy m r c := by
  rw [exec_frame h]
  rfl

end Sys2Proof.Machine

/-! The statements of the family 40_display_sprite.md, settled. -/

namespace Sys2Proof.Machine

/-- Settles O31: the frame holds by the meaning of DXYN; screen and flag are those of drawing the rows. -/
theorem drawXorsTheWrappedSprite : Obligations.DrawXorsTheWrappedSprite := by
  unfold Obligations.DrawXorsTheWrappedSprite
  intro x y n s
  obtain ⟨t, h⟩ := exec_total (.drw x y n) s
  have hframe : t = { s with
      FB := t.FB, V := s.V.set 15 (t.getV 15), events := s.events ++ [.displayUpdate], PC := s.PC + 2#16 } := by
    rw [getV_15_of_exec_drw h]
    cases h
    rfl
  exact ⟨t, h, hframe, pixel_of_exec_drw h, (getV_15_eq_one_iff_of_exec_drw h).2, (getV_15_eq_zero_iff_of_exec_drw h).2⟩

/-- Settles O32: the first draw keeps the coordinates and the sprite, so the second XORs the same pixels again; where the
first did not collide, every sprite pixel is lit before the second. -/
theorem drawingTwiceRestoresTheScreen : Obligations.DrawingTwiceRestoresTheScreen := by
  unfold Obligations.DrawingTwiceRestoresTheScreen
  intro x y n s t hx hy h
  obtain ⟨u, hu⟩ := exec_total (.drw x y n) t
  have hvx : t.getV x = s.getV x := exec_getV_of_not_mayWrite h hx
  have hvy : t.getV y = s.getV y := exec_getV_of_not_mayWrite h hy
  have hfirst := pixel_of_exec_drw h
  have hsecond := pixel_of_exec_drw hu
  have hvf := getV_15_eq_one_iff_of_exec_drw hu
  simp only [hvx, hvy, spriteLit_of_exec_drw h] at hsecond hvf
  refine ⟨u, hu, framebuffer_ext fun r c => ?_, fun hzero => ?_⟩
  · rw [hsecond, hfirst]
    tauto
  · have hfree := (getV_15_eq_zero_iff_of_exec_drw h).1 hzero
    rw [hvf]
    constructor
    · rintro ⟨r, c, _, hlit⟩
      exact ⟨r, c, hlit⟩
    · rintro ⟨r, c, hlit⟩
      have hoff : ¬pixel s.FB r c = true := fun hon => hfree ⟨r, c, hon, hlit⟩
      exact ⟨r, c, (hfirst r c).2 fun hiff => hoff (hiff.2 hlit), hlit⟩

/-- Settles O30: every row of the cleared screen is 0. -/
theorem clearScreenClearsEveryPixel : Obligations.ClearScreenClearsEveryPixel := by
  unfold Obligations.ClearScreenClearsEveryPixel
  intro s
  refine ⟨_, rfl, rfl, fun r c => ?_⟩
  have hrow : (Vector.replicate 32 0#64)[r.val] = 0#64 := Vector.getElem_replicate r.isLt
  exact (congrArg (BitVec.getLsbD · (63 - c.val)) hrow).trans BitVec.getLsbD_zero

end Sys2Proof.Machine

/-! SUPPORT. Where the control-flow instructions send PC (41_control_flow.md R120 to R128), and the words of the patterns
with x and a byte (30_encoding.md R75). -/

namespace Sys2Proof.Machine

variable {i : Instr} {s : State}

theorem State.skip_beq (s : State) (a b : Byte) :
    s.skip (a == b) = { s with PC := s.PC + if a = b then 4#16 else 2#16 } := by
  simp only [State.skip, State.setPC, beq_iff_eq]

theorem State.skip_bne (s : State) (a b : Byte) :
    s.skip (a != b) = { s with PC := s.PC + if a = b then 2#16 else 4#16 } := by
  simp only [State.skip, State.setPC, bne_iff_ne, ne_eq, ite_not]

/-- The return with its entry named: `j` is the topmost entry in use. -/
theorem execRet_of_top (j : Fin 16) (h : s.SP.val = j.val + 1) :
    execRet s = .next { s with SP := j.castSucc, PC := s.S[j.val]'j.isLt + 2#16 } := by
  rw [execRet_of_used (by omega)]
  simp only [h, Nat.add_sub_cancel, Fin.castSucc, Fin.castAdd, Fin.castLE]

theorem zext16_addr_toNat (a : Addr) : (zext16 a).toNat = a.toNat :=
  BitVec.toNat_setWidth_of_le (by decide)

/-- nnn + V0 is at most 0x10FE, so the 16-bit sum does not wrap. -/
theorem jpV0_target_toNat (a : Addr) (b : Byte) : (zext16 a + zext16 b).toNat = a.toNat + b.toNat := by
  simp only [BitVec.toNat_add, BitVec.toNat_setWidth]
  omega

theorem decodeWord_patternX {code : Nibble} {x : Reg} {nn : Byte} (h : encode i = wordXNN code x nn) :
    decodeWord (patternX (zext16 code <<< 12) x nn) = some i := by
  rw [decodeWord_eq_some_iff, patternX_eq, h]

end Sys2Proof.Machine

/-! The statements of the family 41_control_flow.md, settled. -/

namespace Sys2Proof.Machine

/-- Settles O34: the two cases of 2NNN, by the room on the stack. -/
theorem callPushesItsOwnAddress : Obligations.CallPushesItsOwnAddress := by
  unfold Obligations.CallPushesItsOwnAddress
  refine fun nnn s => ⟨execCall_of_full nnn, fun hroom =>
    ⟨_, execCall_of_room nnn hroom, fun j => ?_, rfl, zext16_addr_toNat nnn, rfl⟩⟩
  simp only [Vector.getElem_set, eq_comm]

/-- Settles O35: the two cases of 00EE, by the entries in use. -/
theorem returnGoesPastTheCall : Obligations.ReturnGoesPastTheCall := by
  unfold Obligations.ReturnGoesPastTheCall
  exact fun s => ⟨execRet_of_empty, fun j hj => ⟨_, execRet_of_top j hj, rfl, rfl, rfl⟩⟩

/-- Settles O36: the call pushed its own address at the entry that the return pops. -/
theorem returnUndoesCall : Obligations.ReturnUndoesCall := by
  unfold Obligations.ReturnUndoesCall
  intro nnn s t u hroom hcall hSP hS
  obtain ⟨t', hcall', hpush, hSP', _, _⟩ := (callPushesItsOwnAddress nnn s).2 hroom
  cases hcall'.symm.trans hcall
  obtain ⟨top, htop⟩ : ∃ top : Fin 16, top.val = s.SP.val := ⟨⟨s.SP.val, hroom⟩, rfl⟩
  have hused : u.SP.val = top.val + 1 := by rw [hSP, hSP', htop]
  have hentry : u.S[top.val] = s.PC := by rw [hS top (by omega), hpush top, if_pos htop]
  obtain ⟨v, hret, hPC, hpop, _⟩ := (returnGoesPastTheCall u).2 top hused
  exact ⟨v, hret, by rw [hPC, hentry], Fin.ext (hpop.trans htop)⟩

/-- Settles O33: widening nnn keeps its value. -/
theorem jumpSetsProgramCounter : Obligations.JumpSetsProgramCounter := by
  unfold Obligations.JumpSetsProgramCounter
  exact fun nnn s => ⟨_, rfl, zext16_addr_toNat nnn, rfl⟩

/-- Settles O37: each skip by its comparison, each word by the encoder's row. -/
theorem skipsCompareARegisterWithAByte : Obligations.SkipsCompareARegisterWithAByte := by
  unfold Obligations.SkipsCompareARegisterWithAByte
  exact fun x nn s => ⟨congrArg _ (s.skip_beq _ _), congrArg _ (s.skip_bne _ _),
    decodeWord_patternX (code := 0x3#4) rfl, decodeWord_patternX (code := 0x4#4) rfl⟩

/-- Settles O38: each skip by its comparison. -/
theorem skipsCompareTwoRegisters : Obligations.SkipsCompareTwoRegisters := by
  unfold Obligations.SkipsCompareTwoRegisters
  exact fun x y s => ⟨congrArg _ (s.skip_beq _ _), congrArg _ (s.skip_bne _ _)⟩

/-- Settles O39: the exact sum fits in PC. -/
theorem indexedJumpAddsV0 : Obligations.IndexedJumpAddsV0 := by
  unfold Obligations.IndexedJumpAddsV0
  exact fun nnn s => ⟨_, rfl, jpV0_target_toNat nnn (s.getV 0), rfl⟩

end Sys2Proof.Machine

/-! SUPPORT. The two ends of an arithmetic instruction: the register written and read back, the flag after it, and the
rest of the state as it was (42_alu.md R140, R141). -/

namespace Sys2Proof.Machine

@[simp] theorem State.getV_writeReg_self (s : State) (x : Reg) (b : Byte) : (s.writeReg x b).getV x = b :=
  s.getV_setV_self x b

/-- The flag is written last, so VF holds it also when x = F. -/
@[simp] theorem State.getV_15_writeFlagged (s : State) (x : Reg) (b : Byte) (f : Bool) :
    (s.writeFlagged x b f).getV 15 = flagByte f :=
  (s.setV x b).getV_setV_self 15 (flagByte f)

theorem State.getV_writeFlagged_self (s : State) {x : Reg} (b : Byte) (f : Bool) (hx : x ≠ 15) :
    (s.writeFlagged x b f).getV x = b :=
  ((s.setV x b).getV_setV_other (flagByte f) hx).trans (s.getV_setV_self x b)

theorem State.plainResult_writeReg (s : State) (x : Reg) {b : Byte} {value : Nat} (hv : b.toNat = value) :
    PlainResult s (s.writeReg x b) x value :=
  ⟨rfl, by rw [getV_writeReg_self, hv], fun _ hr => s.getV_writeReg_of_ne b hr⟩

theorem State.flaggedResult_writeFlagged (s : State) (x : Reg) {b : Byte} {value : Nat} {f flag : Bool}
    (hv : b.toNat = value) (hf : f = flag) : FlaggedResult s (s.writeFlagged x b f) x value flag :=
  ⟨rfl, fun hx => by rw [s.getV_writeFlagged_self b f hx, hv], by rw [getV_15_writeFlagged, flagByte_toNat, hf],
    fun _ hx h15 => s.getV_writeFlagged_of_ne b f (not_or.2 ⟨hx, h15⟩)⟩

end Sys2Proof.Machine

/-! SUPPORT. The results and flags of 42_alu.md as numbers (R140 to R143), the draws of CXNN (R155), and the words of the
patterns with x and y (30_encoding.md R75). -/

namespace Sys2Proof.Machine

variable {s : State} {x y : Reg}

theorem trunc8_sum_toNat (a b : Byte) : (trunc8 (a.toNat + b.toNat)).toNat = (a.toNat + b.toNat) % 256 :=
  BitVec.toNat_ofNat _ 8

theorem carryOut_eq (a b : Byte) : carryOut a b = decide (a.toNat + b.toNat > 255) := rfl

/-- The carry is the ninth bit of the exact sum (R140). -/
theorem sum_eq_mod_add_carry (a b : Byte) :
    (a.toNat + b.toNat) % 256 + 256 * (if decide (a.toNat + b.toNat > 255) then 1 else 0) = a.toNat + b.toNat := by
  have ha := a.isLt
  have hb := b.isLt
  simp only [decide_eq_true_eq]
  split <;> omega

theorem byte_sub_toNat (a b : Byte) : (a - b).toNat = (a.toNat + 256 - b.toNat) % 256 := by
  rw [BitVec.toNat_sub]
  omega

/-- A function that gives each `SUB_FLAG_RULE` its comparison is the SUB flag (R142). -/
theorem subFlag_eq {rule : Config.SubFlagRule} {flag : Nat → Nat → Bool}
    (hge : rule = .notBorrow → ∀ a b, flag a b = decide (a ≥ b))
    (hgt : rule = .notBorrowStrict → ∀ a b, flag a b = decide (a > b))
    (hlt : rule = .borrow → ∀ a b, flag a b = decide (a < b)) (a b : Byte) :
    subFlag rule a b = flag a.toNat b.toNat := by
  cases rule with
  | notBorrow => exact (hge rfl _ _).symm
  | notBorrowStrict => exact (hgt rfl _ _).symm
  | borrow => exact (hlt rfl _ _).symm

/-- A number that is the operand under each `SHIFT_SOURCE` is the operand (R143). -/
theorem State.shiftOperand_toNat {v : Nat} (hvx : s.params.shiftSource = .vx → v = (s.getV x).toNat)
    (hvy : s.params.shiftSource = .vy → v = (s.getV y).toNat) : (s.shiftOperand x y).toNat = v := by
  cases h : s.params.shiftSource with
  | vx => rw [State.shiftOperand, h, hvx h]
  | vy => rw [State.shiftOperand, h, hvy h]

theorem byte_shiftRight_one_toNat (v : Byte) : (v >>> 1).toNat = v.toNat / 2 := by
  rw [BitVec.toNat_ushiftRight, Nat.shiftRight_one]

theorem byte_shiftLeft_one_toNat (v : Byte) : (v <<< 1).toNat = 2 * v.toNat % 256 := by
  rw [BitVec.toNat_shiftLeft, Nat.shiftLeft_eq, Nat.pow_one, Nat.mul_comm]

theorem lowBitOut_eq (v : Byte) : lowBitOut v = decide (v.toNat % 2 = 1) := by
  rw [lowBitOut, BitVec.getLsbD, Nat.testBit_zero]

theorem highBitOut_eq (v : Byte) : highBitOut v = decide (v.toNat ≥ 128) :=
  BitVec.msb_eq_decide v

theorem exec_rnd_of_substituted {b : Byte} {feed : List Byte} (nn : Byte) (h : s.randomFeed = b :: feed) :
    exec (.rnd x nn) s = .next (State.writeReg { s with randomFeed := feed } x (b &&& nn)) := by
  simp only [exec, execRnd, State.drawByte, h]

theorem exec_rnd_of_free (nn : Byte) (h : s.randomFeed = []) :
    exec (.rnd x nn) s =
      .next (State.writeReg { s with draws := s.draws + 1 } x (Config.freeByte s.draws &&& nn)) := by
  simp only [exec, execRnd, State.drawByte, h]

theorem decodeWord_patternXY {code : Nibble} {i : Instr} (h : encode i = wordXYN code x y 0x0#4) :
    decodeWord (patternXY (zext16 code <<< 12) x y) = some i := by
  rw [decodeWord_eq_some_iff, patternXY_eq, h]

end Sys2Proof.Machine

/-! The statements of the family 42_alu.md, settled. -/

namespace Sys2Proof.Machine

/-- Settles O43: when x is not F, sum and carry together are the exact sum. -/
theorem addWritesSumAndCarry : Obligations.AddWritesSumAndCarry := by
  unfold Obligations.AddWritesSumAndCarry
  intro x y s
  have hres := s.flaggedResult_writeFlagged x (trunc8_sum_toNat (s.getV x) (s.getV y))
    (carryOut_eq (s.getV x) (s.getV y))
  refine ⟨_, rfl, hres, fun hne => ?_⟩
  obtain ⟨_, hx, hvf, _⟩ := hres
  rw [hx hne, hvf, sum_eq_mod_add_carry]

/-- Settles O44: each subtraction by its difference and the flag of the rule in force. -/
theorem subtractWritesDifferenceAndFlag : Obligations.SubtractWritesDifferenceAndFlag := by
  unfold Obligations.SubtractWritesDifferenceAndFlag
  intro x y s flag hge hgt hlt
  have hflag := subFlag_eq hge hgt hlt
  exact ⟨⟨_, rfl, s.flaggedResult_writeFlagged x (byte_sub_toNat _ _) (hflag _ _)⟩,
    ⟨_, rfl, s.flaggedResult_writeFlagged x (byte_sub_toNat _ _) (hflag _ _)⟩⟩

/-- Settles O45: each shift by its result and its bit out, on the operand of the source in force. -/
theorem shiftsWriteResultAndBitOut : Obligations.ShiftsWriteResultAndBitOut := by
  unfold Obligations.ShiftsWriteResultAndBitOut
  intro x y s v hvx hvy
  obtain rfl := State.shiftOperand_toNat hvx hvy
  exact ⟨⟨_, rfl, s.flaggedResult_writeFlagged x (byte_shiftRight_one_toNat _) (lowBitOut_eq _)⟩,
    ⟨_, rfl, s.flaggedResult_writeFlagged x (byte_shiftLeft_one_toNat _) (highBitOut_eq _)⟩⟩

/-- Settles O40: each form by the value it writes, each word by the encoder's row. -/
theorem immediateFormsWriteOnlyTheirRegister : Obligations.ImmediateFormsWriteOnlyTheirRegister := by
  unfold Obligations.ImmediateFormsWriteOnlyTheirRegister
  exact fun x nn s => ⟨⟨_, rfl, s.plainResult_writeReg x rfl⟩,
    ⟨_, rfl, s.plainResult_writeReg x (BitVec.toNat_add (s.getV x) nn)⟩,
    decodeWord_patternX (code := 0x6#4) rfl, decodeWord_patternX (code := 0x7#4) rfl⟩

/-- Settles O41: V[y] is read before V[x] is written. -/
theorem assignCopiesARegister : Obligations.AssignCopiesARegister := by
  unfold Obligations.AssignCopiesARegister
  exact fun x y s => ⟨⟨_, rfl, s.plainResult_writeReg x rfl⟩, decodeWord_patternXY (code := 0x8#4) rfl⟩

/-- Settles O42, operation by operation. -/
theorem logicOperationsWriteNoFlag : Obligations.LogicOperationsWriteNoFlag := by
  unfold Obligations.LogicOperationsWriteNoFlag
  exact fun x y s => ⟨⟨_, rfl, s.plainResult_writeReg x (BitVec.toNat_or _ _)⟩,
    ⟨_, rfl, s.plainResult_writeReg x (BitVec.toNat_and _ _)⟩,
    ⟨_, rfl, s.plainResult_writeReg x (BitVec.toNat_xor _ _)⟩⟩

/-- Settles O46: the two draws, by what stands at the random port. -/
theorem randomMasksTheDrawnByte : Obligations.RandomMasksTheDrawnByte := by
  unfold Obligations.RandomMasksTheDrawnByte
  exact fun x nn s => ⟨fun _ _ h => ⟨_, exec_rnd_of_substituted nn h, State.plainResult_writeReg _ x rfl⟩,
    fun h => ⟨_, exec_rnd_of_free nn h, State.plainResult_writeReg _ x rfl⟩⟩

end Sys2Proof.Machine

/-! SUPPORT. What the instructions of 43_index_memory.md put in I (R170 to R172, R176), the decimal digits (R173), and the
block transfers by the font check they pass or fail (R173 to R175; 20_memory.md R54). -/

namespace Sys2Proof.Machine

variable {s t : State} {x : Reg}

theorem add_zext16_byte_toNat (a : Word) (b : Byte) : (a + zext16 b).toNat = (a.toNat + b.toNat) % 65536 := by
  rw [BitVec.toNat_add, BitVec.toNat_setWidth_of_le (by decide)]

/-- The last glyph is at 75, so the product does not wrap. -/
theorem glyphAddr_toNat (b : Byte) : (glyphAddr b).toNat = 5 * (b.toNat % 16) := by
  have hnib : (b &&& 0xF#8).toNat = b.toNat % 16 := by
    rw [BitVec.toNat_and]
    exact Nat.and_two_pow_sub_one_eq_mod b.toNat 4
  rw [glyphAddr, BitVec.toNat_mul, BitVec.toNat_setWidth_of_le (by decide), hnib]
  exact Nat.mod_eq_of_lt (show 5 * (b.toNat % 16) < 65536 by omega)

theorem State.indexAfterBlock_of_incrementX1 (h : s.params.indexMode = .incrementX1) :
    s.indexAfterBlock x = s.I + BitVec.ofNat 16 x.val + 1#16 := by
  rw [State.indexAfterBlock, h, BitVec.ofNat_add, ← BitVec.add_assoc]

theorem State.indexAfterBlock_of_incrementX (h : s.params.indexMode = .incrementX) :
    s.indexAfterBlock x = s.I + BitVec.ofNat 16 x.val := by
  rw [State.indexAfterBlock, h]

theorem bcdDigit_zero_toNat (v : Byte) : (bcdDigit v 0).toNat = v.toNat / 100 :=
  (BitVec.toNat_ofNat _ 8).trans (Nat.mod_eq_of_lt (by omega))

theorem bcdDigit_one_toNat (v : Byte) : (bcdDigit v 1).toNat = v.toNat / 10 % 10 :=
  (BitVec.toNat_ofNat _ 8).trans (Nat.mod_eq_of_lt (by omega))

theorem bcdDigit_two_toNat (v : Byte) : (bcdDigit v 2).toNat = v.toNat % 10 :=
  (BitVec.toNat_ofNat _ 8).trans (Nat.mod_eq_of_lt (by omega))

theorem State.hitsFont_eq_true_iff {n : Nat} : hitsFont s.I n = true ↔ BlockHitsFont s n :=
  hitsFont_iff s.I n

theorem State.hitsFont_eq_false_iff {n : Nat} : hitsFont s.I n = false ↔ ¬BlockHitsFont s n := by
  rw [← hitsFont_eq_true_iff, Bool.not_eq_true]

theorem execLdB_of_font (h : BlockHitsFont s 3) : execLdB x s = .next { s with mode := .halted .fontWrite } :=
  ((execLdB_cases x s).resolve_right fun ⟨hf, _⟩ => State.hitsFont_eq_false_iff.1 hf h).2

theorem execLdB_of_clear (h : ¬BlockHitsFont s 3) : ∃ t, execLdB x s = .next t ∧
    t.mem = s.mem.writeBlock s.I (bcdDigit (s.getV x)) 3 ∧ t = { s with mem := t.mem, PC := s.PC + 2#16 } :=
  ⟨_, ((execLdB_cases x s).resolve_left fun ⟨hf, _⟩ => h (State.hitsFont_eq_true_iff.1 hf)).2, rfl, rfl⟩

theorem execStoreRegs_of_font (h : BlockHitsFont s (x.val + 1)) :
    execStoreRegs x s = .next { s with mode := .halted .fontWrite } :=
  ((execStoreRegs_cases x s).resolve_right fun ⟨hf, _⟩ => State.hitsFont_eq_false_iff.1 hf h).2

theorem execStoreRegs_of_clear (h : ¬BlockHitsFont s (x.val + 1)) : ∃ t, execStoreRegs x s = .next t ∧
    t.mem = s.mem.writeBlock s.I s.regNo (x.val + 1) ∧ t.I = s.indexAfterBlock x ∧
    t = { s with mem := t.mem, I := t.I, PC := s.PC + 2#16 } :=
  ⟨_, ((execStoreRegs_cases x s).resolve_left fun ⟨hf, _⟩ => h (State.hitsFont_eq_true_iff.1 hf)).2, rfl, rfl, rfl⟩

/-- A state whose memory is a canonical one with a block stored at I reads the block back. -/
theorem State.memRead_of_writeBlock {f : Nat → Byte} {n k : Nat} (hwf : MemoryCanonical s)
    (hmem : t.mem = s.mem.writeBlock s.I f n) (hn : n ≤ 4096) (hk : k < n) :
    t.memRead (s.I + BitVec.ofNat 16 k) = f k := by
  rw [State.memRead, hmem]
  exact Memory.read_writeBlock hwf s.I f hn hk

theorem unchangedOutside_of_writeBlock {f : Nat → Byte} {n : Nat} (hmem : t.mem = s.mem.writeBlock s.I f n) :
    UnchangedOutside s t s.I n := fun a ha => by
  rw [hmem]
  exact Memory.read_writeBlock_other s.mem s.I f ha

end Sys2Proof.Machine

/-! The statements of the family 43_index_memory.md, settled. -/

namespace Sys2Proof.Machine

/-- Settles O48: the block's bytes are the digits, and a byte has at most three. -/
theorem bcdStoresTheDecimalDigits : Obligations.BcdStoresTheDecimalDigits := by
  unfold Obligations.BcdStoresTheDecimalDigits
  refine fun x s => ⟨execLdB_of_font, fun hwf hclear => ?_⟩
  obtain ⟨t, hexec, hmem, hframe⟩ := execLdB_of_clear hclear
  have hbyte : ∀ k, k < 3 → t.memRead (s.I + BitVec.ofNat 16 k) = bcdDigit (s.getV x) k :=
    fun k hk => State.memRead_of_writeBlock hwf hmem (by decide) hk
  have hhundreds : t.memRead s.I = bcdDigit (s.getV x) 0 := by simpa using hbyte 0 (by decide)
  have htens : t.memRead (s.I + 1#16) = bcdDigit (s.getV x) 1 := hbyte 1 (by decide)
  have hones : t.memRead (s.I + 2#16) = bcdDigit (s.getV x) 2 := hbyte 2 (by decide)
  have hv := (s.getV x).isLt
  refine ⟨t, hexec, ?_⟩
  rw [hhundreds, htens, hones, bcdDigit_zero_toNat, bcdDigit_one_toNat, bcdDigit_two_toNat]
  exact ⟨by omega, by omega, by omega, by omega, unchangedOutside_of_writeBlock hmem, hframe⟩

/-- Settles O49: the block's bytes are the registers by number, and the index modes are the three of R176. -/
theorem storeRegistersFillsTheBlock : Obligations.StoreRegistersFillsTheBlock := by
  unfold Obligations.StoreRegistersFillsTheBlock
  refine fun x s => ⟨execStoreRegs_of_font, fun hwf hclear => ?_⟩
  obtain ⟨t, hexec, hmem, hI, hframe⟩ := execStoreRegs_of_clear hclear
  have hblock : ∀ r : Reg, r.val ≤ x.val → t.memRead (s.I + BitVec.ofNat 16 r.val) = s.getV r := fun r hr =>
    (State.memRead_of_writeBlock hwf hmem (by omega) (by omega)).trans (s.regNo_eq r)
  exact ⟨t, hexec, hblock, unchangedOutside_of_writeBlock hmem,
    fun h => hI.trans (State.indexAfterBlock_of_unchanged x h),
    fun h => hI.trans (State.indexAfterBlock_of_incrementX1 h),
    fun h => hI.trans (State.indexAfterBlock_of_incrementX h), hframe⟩

/-- Settles O50: the registers of the block are those up to x, and the index modes are the three of R176. -/
theorem loadRegistersReadsTheBlock : Obligations.LoadRegistersReadsTheBlock := by
  unfold Obligations.LoadRegistersReadsTheBlock
  exact fun x s => ⟨_, rfl,
    fun r => (getElem_loadBlock s.mem s.I s.V (x.val + 1) r.isLt).trans (if_congr Nat.lt_succ_iff rfl rfl),
    State.indexAfterBlock_of_unchanged x, State.indexAfterBlock_of_incrementX1, State.indexAfterBlock_of_incrementX, rfl⟩

/-- Settles O51: the load reads the bytes that the store wrote (O49, O50). -/
theorem loadRestoresStoredRegisters : Obligations.LoadRestoresStoredRegisters := by
  unfold Obligations.LoadRestoresStoredRegisters
  intro x s t u hwf hclear hstore hmem hI
  obtain ⟨t', hstore', hblock, _⟩ := (storeRegistersFillsTheBlock x s).2 hwf hclear
  cases hstore'.symm.trans hstore
  obtain ⟨v, hload, hregs, _⟩ := loadRegistersReadsTheBlock x u
  refine ⟨v, hload, fun r hr => ?_⟩
  calc v.getV r = u.memRead (s.I + BitVec.ofNat 16 r.val) := by rw [hregs r, if_pos hr, hI]
    _ = t.memRead (s.I + BitVec.ofNat 16 r.val) := by rw [State.memRead, State.memRead, hmem]
    _ = s.getV r := hblock r hr

/-- Settles O47: each instruction by the value it puts in I, each word by the encoder's row. -/
theorem indexInstructionsSetIndex : Obligations.IndexInstructionsSetIndex := by
  unfold Obligations.IndexInstructionsSetIndex
  refine fun nnn x s => ⟨⟨_, rfl, zext16_addr_toNat nnn, rfl⟩, ⟨_, rfl, add_zext16_byte_toNat s.I (s.getV x), rfl⟩,
    ⟨_, rfl, glyphAddr_toNat (s.getV x), rfl⟩, ?_, decodeWord_patternX (code := 0xF#4) rfl,
    decodeWord_patternX (code := 0xF#4) rfl⟩
  exact decodeWord_eq_some_iff.2 (patternNNN_eq 0xA#4 nnn).symm

end Sys2Proof.Machine

/-! SUPPORT. What the key and timer instructions answer (44_keys_timers.md R190 to R196), and which instructions can leave a
running engine where it stands (R197; 70_reset_and_hazards.md R251). -/

namespace Sys2Proof.Machine

variable {i : Instr} {s t : State} {x : Reg}

theorem execSkp_of_key (h : (s.getV x).toNat ≤ 15) : execSkp x s = .next (s.skip (s.K.getLsbD (s.getV x).toNat)) :=
  if_neg h.not_gt

theorem execSkp_of_no_key (h : (s.getV x).toNat > 15) :
    execSkp x s = .next { s with mode := .halted .keyIndexOutOfRange } :=
  if_pos h

theorem execSknp_of_key (h : (s.getV x).toNat ≤ 15) : execSknp x s = .next (s.skip (!s.K.getLsbD (s.getV x).toNat)) :=
  if_neg h.not_gt

theorem execSknp_of_no_key (h : (s.getV x).toNat > 15) :
    execSknp x s = .next { s with mode := .halted .keyIndexOutOfRange } :=
  if_pos h

theorem State.skip_not (s : State) (c : Bool) : s.skip (!c) = { s with PC := s.PC + if c then 2#16 else 4#16 } := by
  cases c <;> rfl

theorem exists_lowestKey {keys : Word} (h : keys ≠ 0#16) : ∃ k, lowestKey keys = some k :=
  Option.ne_none_iff_exists'.1 fun hnone => h ((lowestKey_eq_none_iff keys).1 hnone)

theorem State.soundOn_iff : s.soundOn = true ↔ s.ST.toNat ≠ 0 := by
  rw [State.soundOn, bne_iff_ne, ← BitVec.toNat_ne_iff_ne, BitVec.toNat_zero]

/-- No advance or skip brings PC back to where it was. -/
theorem add_ofNat_ne_self (pc : Word) {n : Nat} (hpos : 0 < n) (hn : n ≤ 4) : pc + BitVec.ofNat 16 n ≠ pc := by
  rw [← BitVec.toNat_ne_iff_ne, BitVec.toNat_add, BitVec.toNat_ofNat]
  have := pc.isLt
  omega

theorem State.advance_PC_ne (s : State) : s.PC + 2#16 ≠ s.PC :=
  add_ofNat_ne_self s.PC (n := 2) (by decide) (by decide)

theorem State.skip_PC_ne (s : State) (c : Bool) : (s.skip c).PC ≠ s.PC := by
  cases c
  · exact s.advance_PC_ne
  · exact add_ofNat_ne_self s.PC (n := 4) (by decide) (by decide)

theorem State.next_setPC_eq_self_iff {pc : Word} :
    (.next (s.setPC pc) : Result) = .next s ↔ pc.toNat = s.PC.toNat := by
  rw [BitVec.toNat_inj]
  constructor
  · intro h
    exact congrArg State.PC (Host.Outcome.next.inj h)
  · rintro rfl
    rfl

theorem execJp_eq_self_iff {a : Addr} : execJp a s = .next s ↔ a.toNat = s.PC.toNat := by
  rw [execJp, State.next_setPC_eq_self_iff, zext16_addr_toNat]

theorem execJpV0_eq_self_iff {a : Addr} :
    execJpV0 a s = .next s ↔ a.toNat + (s.getV 0).toNat = s.PC.toNat := by
  rw [execJpV0, State.next_setPC_eq_self_iff, jpV0_target_toNat]

/-- `t` is ahead of `s`: PC or SP has changed, or the engine has left `Running`. -/
def Moves (s t : State) : Prop := t.PC ≠ s.PC ∨ t.SP ≠ s.SP ∨ t.mode ≠ .running

theorem not_moves_self (hm : s.mode = .running) : ¬Moves s s := by
  rintro (hPC | hSP | hmode)
  · exact hPC rfl
  · exact hSP rfl
  · exact hmode hm

/-- The two ways of an instruction with a check: it raises a fatal condition, or it answers a state at another PC. -/
theorem moves_of_halts_or_answers {p q : Prop} {cause : FatalCondition} {r : Result} {u : State}
    (hr : (p ∧ r = .next { s with mode := .halted cause }) ∨ (q ∧ r = .next u)) (hu : u.PC ≠ s.PC) (h : r = .next t) :
    Moves s t := by
  rcases hr with ⟨_, e⟩ | ⟨_, e⟩ <;> cases e.symm.trans h
  · exact .inr (.inr nofun)
  · exact .inl hu

theorem execRet_moves (h : execRet s = .next t) : Moves s t := by
  rcases execRet_cases s with ⟨_, e⟩ | ⟨h0, e⟩ <;> cases e.symm.trans h
  · exact .inr (.inr nofun)
  · exact .inr (.inl (Fin.ne_of_val_ne (Nat.sub_one_lt h0).ne))

theorem execCall_moves {a : Addr} (h : execCall a s = .next t) : Moves s t := by
  rcases execCall_cases a s with ⟨_, e⟩ | ⟨_, e⟩ <;> cases e.symm.trans h
  · exact .inr (.inr nofun)
  · exact .inr (.inl (Fin.ne_of_val_ne (Nat.succ_ne_self s.SP.val)))

/-- FX0A may hold, a jump may name its own address, and every other instruction moves: 00EE and 2NNN by SP, the others by
PC, unless they halt. -/
theorem exec_stands_or_moves (h : exec i s = .next t) :
    ((∃ x, i = .ldVxK x) ∧ s.K = 0#16) ∨ (∃ a, i = .jp a ∨ i = .jpV0 a) ∨ Moves s t := by
  have hadv := s.advance_PC_ne
  cases i with
  | ldVxK x =>
    rcases execLdVxK_cases x s with ⟨hK, _⟩ | ⟨_, _, e⟩
    · exact .inl ⟨⟨x, rfl⟩, hK⟩
    · cases e.symm.trans h
      exact .inr (.inr (.inl hadv))
  | jp a => exact .inr (.inl ⟨a, .inl rfl⟩)
  | jpV0 a => exact .inr (.inl ⟨a, .inr rfl⟩)
  | ret => exact .inr (.inr (execRet_moves h))
  | call a => exact .inr (.inr (execCall_moves h))
  | seByte | sneByte | seReg | sneReg => cases h; exact .inr (.inr (.inl (s.skip_PC_ne _)))
  | skp x => exact .inr (.inr (moves_of_halts_or_answers (execSkp_cases x s) (s.skip_PC_ne _) h))
  | sknp x => exact .inr (.inr (moves_of_halts_or_answers (execSknp_cases x s) (s.skip_PC_ne _) h))
  | ldB x => exact .inr (.inr (moves_of_halts_or_answers (execLdB_cases x s) hadv h))
  | storeRegs x => exact .inr (.inr (moves_of_halts_or_answers (execStoreRegs_cases x s) hadv h))
  | rnd x nn =>
    obtain ⟨_, _, _, e⟩ := exec_rnd_cases x nn s
    cases e.symm.trans h
    exact .inr (.inr (.inl hadv))
  | _ => cases h; exact .inr (.inr (.inl hadv))

theorem exec_eq_self_iff (hm : s.mode = .running) :
    exec i s = .next s ↔ ((∃ x, i = .ldVxK x) ∧ s.K = 0#16) ∨ ∃ a : Addr,
      (i = .jp a ∧ a.toNat = s.PC.toNat) ∨ (i = .jpV0 a ∧ a.toNat + (s.getV 0).toNat = s.PC.toNat) := by
  constructor
  · intro h
    rcases exec_stands_or_moves h with hold | ⟨a, rfl | rfl⟩ | hmoves
    · exact .inl hold
    · exact .inr ⟨a, .inl ⟨rfl, execJp_eq_self_iff.1 h⟩⟩
    · exact .inr ⟨a, .inr ⟨rfl, execJpV0_eq_self_iff.1 h⟩⟩
    · exact absurd hmoves (not_moves_self hm)
  · rintro (⟨⟨x, rfl⟩, hK⟩ | ⟨a, ⟨rfl, ha⟩ | ⟨rfl, ha⟩⟩)
    · exact execLdVxK_of_idle x hK
    · exact execJp_eq_self_iff.2 ha
    · exact execJpV0_eq_self_iff.2 ha

end Sys2Proof.Machine

/-! The statements of the family 44_keys_timers.md, settled. -/

namespace Sys2Proof.Machine

/-- Settles O28: the step executes the instruction at PC, which stands still in the three ways of `exec_eq_self_iff`; a
fetch that fails halts the engine. -/
theorem onlyHoldOrSelfJumpStandsStill : Obligations.OnlyHoldOrSelfJumpStandsStill := by
  unfold Obligations.OnlyHoldOrSelfJumpStandsStill
  intro s hm hs
  rw [step_of_running hm hs]
  cases hi : s.nextInstr with
  | ok i =>
    rw [executionStep_of_ok hi, exec_eq_self_iff hm]
    simp [Holding, hm, hi]
  | error cause =>
    have hhalt : ¬executionStep s = .next s := by
      rw [executionStep_of_error hi]
      intro h
      have hmode : .halted cause = s.mode := congrArg State.mode (Host.Outcome.next.inj h)
      cases hmode.trans hm
    simp [Holding, hi, hhalt]

/-- Settles O53: the key found is a number below 16, so it fits in V[x]. -/
theorem waitStoresTheLowestPressedKey : Obligations.WaitStoresTheLowestPressedKey := by
  unfold Obligations.WaitStoresTheLowestPressedKey
  refine fun x s => ⟨execLdVxK_of_idle x, fun hK => ?_⟩
  obtain ⟨k, hk⟩ := exists_lowestKey hK
  obtain ⟨hlt, hpressed, hlowest⟩ := lowestKey_eq_some hk
  have hbyte : (trunc8 k).toNat = k := (BitVec.toNat_ofNat k 8).trans (Nat.mod_eq_of_lt (by omega))
  exact ⟨_, k, execLdVxK_of_pressed x hk, s.plainResult_writeReg x hbyte, by omega, hpressed, hlowest⟩

/-- Settles O52: the two skips, on either side of the key-number check. -/
theorem keySkipsTestTheNumberedKey : Obligations.KeySkipsTestTheNumberedKey := by
  unfold Obligations.KeySkipsTestTheNumberedKey
  refine fun x s => ⟨fun hkey => ⟨execSkp_of_key hkey, ?_⟩, fun hno => ⟨execSkp_of_no_key hno, execSknp_of_no_key hno⟩⟩
  exact (execSknp_of_key hkey).trans (congrArg _ (s.skip_not _))

/-- Settles O54: each transfer by the value it copies, each word by the encoder's row. -/
theorem delayTimerIsReadAndSet : Obligations.DelayTimerIsReadAndSet := by
  unfold Obligations.DelayTimerIsReadAndSet
  exact fun x s => ⟨⟨_, rfl, s.plainResult_writeReg x rfl⟩, rfl, decodeWord_patternX (code := 0xF#4) rfl,
    decodeWord_patternX (code := 0xF#4) rfl⟩

/-- Settles O55: the level of the next state is that of the timer just set. -/
theorem soundTimerIsSetAndAnnounced : Obligations.SoundTimerIsSetAndAnnounced := by
  unfold Obligations.SoundTimerIsSetAndAnnounced
  exact fun x s => ⟨_, rfl, rfl, State.soundOn_iff⟩

end Sys2Proof.Machine

/-! SUPPORT. What halts an engine (60_exceptions.md R210 to R214): an instruction completes and keeps `mode`, or it raises its
fatal condition and changes nothing else; a fetch that fails raises its own. -/

namespace Sys2Proof.Machine

variable {i : Instr} {s t : State} {cause : FatalCondition}

/-- The fatal conditions that instruction `i` itself raises in state `s`: the table of R211 without the two rows of the
fetch. -/
def Raises (s : State) (i : Instr) : FatalCondition → Prop
  | .invalidProgramCounter | .unknownInstruction => False
  | .stackOverflow => (∃ a, i = .call a) ∧ s.SP.val = 16
  | .stackUnderflow => i = .ret ∧ s.SP.val = 0
  | .fontWrite => ∃ x, (i = .ldB x ∧ BlockHitsFont s 3) ∨ (i = .storeRegs x ∧ BlockHitsFont s (x.val + 1))
  | .keyIndexOutOfRange => ∃ x, (i = .skp x ∨ i = .sknp x) ∧ (s.getV x).toNat > 15

theorem exec_of_raises (h : Raises s i cause) : exec i s = .next { s with mode := .halted cause } := by
  cases cause with
  | invalidProgramCounter | unknownInstruction => exact h.elim
  | stackOverflow => obtain ⟨⟨a, rfl⟩, hfull⟩ := h; exact execCall_of_full a hfull
  | stackUnderflow => obtain ⟨rfl, hempty⟩ := h; exact execRet_of_empty hempty
  | fontWrite => obtain ⟨x, ⟨rfl, hfont⟩ | ⟨rfl, hfont⟩⟩ := h <;> exact if_pos ((hitsFont_iff _ _).2 hfont)
  | keyIndexOutOfRange =>
    obtain ⟨x, rfl | rfl, hkey⟩ := h
    · exact execSkp_of_no_key hkey
    · exact execSknp_of_no_key hkey

/-- The two ways of an instruction with a check: it raises its fatal condition, or it completes in the mode it began in. -/
theorem keeps_mode_or_raises_of_cases {p q : Prop} {r : Result} {u : State}
    (hr : (p ∧ r = .next { s with mode := .halted cause }) ∨ (q ∧ r = .next u)) (hp : p → Raises s i cause)
    (hu : u.mode = s.mode) (h : r = .next t) :
    t.mode = s.mode ∨ ∃ cause, Raises s i cause ∧ t = { s with mode := .halted cause } := by
  rcases hr with ⟨hcheck, e⟩ | ⟨_, e⟩ <;> cases e.symm.trans h
  · exact .inr ⟨cause, hp hcheck, rfl⟩
  · exact .inl hu

/-- An instruction that answers a next state completed in the mode it began in, or raised a fatal condition, which changed
`mode` alone. -/
theorem exec_keeps_mode_or_raises (h : exec i s = .next t) :
    t.mode = s.mode ∨ ∃ cause, Raises s i cause ∧ t = { s with mode := .halted cause } := by
  have hf := exec_frame h
  cases i with
  | ret =>
    rcases execRet_cases s with ⟨h0, e⟩ | ⟨_, e⟩ <;> cases e.symm.trans h
    · exact .inr ⟨.stackUnderflow, ⟨rfl, h0⟩, rfl⟩
    · exact .inl rfl
  | call a =>
    rcases execCall_cases a s with ⟨h16, e⟩ | ⟨_, e⟩ <;> cases e.symm.trans h
    · exact .inr ⟨.stackOverflow, ⟨⟨a, rfl⟩, h16⟩, rfl⟩
    · exact .inl rfl
  | ldB x =>
    exact keeps_mode_or_raises_of_cases (execLdB_cases x s)
      (fun hfont => ⟨x, .inl ⟨rfl, (hitsFont_iff _ _).1 hfont⟩⟩) rfl h
  | storeRegs x =>
    exact keeps_mode_or_raises_of_cases (execStoreRegs_cases x s)
      (fun hfont => ⟨x, .inr ⟨rfl, (hitsFont_iff _ _).1 hfont⟩⟩) rfl h
  | skp x => exact keeps_mode_or_raises_of_cases (execSkp_cases x s) (fun hkey => ⟨x, .inl rfl, hkey⟩) rfl h
  | sknp x => exact keeps_mode_or_raises_of_cases (execSknp_cases x s) (fun hkey => ⟨x, .inr rfl, hkey⟩) rfl h
  | _ => exact .inl ((congrArg State.mode hf).trans rfl)

/-- Run in a running engine, an instruction halts with the conditions of `Raises` and no others. -/
theorem exec_halts_iff (hm : s.mode = .running) :
    exec i s = .next { s with mode := .halted cause } ↔ Raises s i cause := by
  refine ⟨fun h => ?_, exec_of_raises⟩
  rcases exec_keeps_mode_or_raises h with hmode | ⟨cause', hr, ht⟩
  · cases hmode.trans hm
  · obtain rfl : cause = cause' := Mode.halted.inj (congrArg State.mode ht)
    exact hr

theorem not_fetchable_iff {a : Word} : ¬Fetchable a ↔ a.toNat % 2 = 1 ∨ a.toNat > 0xFFE := by
  rw [Fetchable]
  omega

theorem haltCause_of_ok (hi : s.nextInstr = .ok i) : HaltCause s cause ↔ Raises s i cause := by
  obtain ⟨hpc, hd⟩ := State.nextInstr_ok hi
  cases cause with
  | invalidProgramCounter => simp [HaltCause, Raises, ← not_fetchable_iff, hpc]
  | unknownInstruction => simp [HaltCause, Raises, hd]
  | stackOverflow | stackUnderflow | fontWrite | keyIndexOutOfRange => simp [HaltCause, Raises, hi]

/-- The fetch comes first (R214): when it fails, its cause is the only one. -/
theorem haltCause_of_error {fetchCause : FatalCondition} (hi : s.nextInstr = .error fetchCause) :
    HaltCause s cause ↔ fetchCause = cause := by
  rcases s.nextInstr_cases with ⟨hpc, e⟩ | ⟨hpc, hd, e⟩ | ⟨_, i, _, e⟩
  · cases e.symm.trans hi
    cases cause <;> simp [HaltCause, ← not_fetchable_iff, hpc, hi]
  · cases e.symm.trans hi
    cases cause <;> simp [HaltCause, ← not_fetchable_iff, hpc, hd, hi]
  · cases e.symm.trans hi

/-- An execution step of a running engine halts with the causes of R211, in the order of R214, and no others. -/
theorem executionStep_halts_iff (hm : s.mode = .running) :
    executionStep s = .next { s with mode := .halted cause } ↔ HaltCause s cause := by
  cases hi : s.nextInstr with
  | ok i => rw [executionStep_of_ok hi, exec_halts_iff hm, haltCause_of_ok hi]
  | error fetchCause =>
    rw [executionStep_of_error hi, haltCause_of_error hi]
    constructor
    · exact fun h => Mode.halted.inj (congrArg State.mode (Host.Outcome.next.inj h))
    · rintro rfl
      rfl

theorem executionStep_keeps_mode_or_halts (h : executionStep s = .next t) :
    t.mode = s.mode ∨ ∃ cause, t = { s with mode := .halted cause } := by
  rcases executionStep_cases s with ⟨i, _, _, e⟩ | ⟨cause, _, e⟩
  · exact (exec_keeps_mode_or_raises (e.symm.trans h)).imp_right fun ⟨cause, _, ht⟩ => ⟨cause, ht⟩
  · cases e.symm.trans h
    exact .inr ⟨cause, rfl⟩

theorem executionStep_total (s : State) : ∃ t, executionStep s = .next t := by
  rcases executionStep_cases s with ⟨i, _, _, e⟩ | ⟨_, _, e⟩
  · rw [e]
    exact exec_total i s
  · exact ⟨_, e⟩

/-- Whatever its turn, an agent's step is accepted or turned away. -/
theorem deliver_total {a : AgentStep} (ha : a ≠ .executionTick) (s : State) : ∃ t, deliver a s = .next t := by
  cases hp : s.port a with
  | ok t => exact ⟨t, deliver_of_ok ha hp⟩
  | error e => exact ⟨s, deliver_of_error ha hp⟩

end Sys2Proof.Machine

/-! SUPPORT. Timer ticks and key edges, beside instructions and by themselves (60_exceptions.md R220, R221, R224). -/

namespace Sys2Proof.Machine

/-- A timer tick as a change of the two timers. -/
def SideChange.tick : SideChange := { DT := countDown, ST := countDown }

theorem SideChange.tick_apply (s : State) : SideChange.tick.apply s = s.timerTick := rfl

theorem SideChange.tick_spares {i : Instr} (hi : ∀ x, i ≠ .ldVxDt x ∧ i ≠ .ldDtVx x ∧ i ≠ .ldStVx x) :
    SideChange.tick.Spares i where
  DT := fun ⟨x, hx⟩ => by
    obtain ⟨hread, hset, _⟩ := hi x
    exact absurd hx (not_or.2 ⟨hread, hset⟩)
  ST := fun ⟨x, hx⟩ => by
    obtain ⟨_, _, hset⟩ := hi x
    exact absurd hx hset

theorem countDown_iterate_toNat (n : Nat) (b : Byte) : (countDown^[n] b).toNat = b.toNat - n := by
  induction n with
  | zero => rfl
  | succ n ih => rw [Function.iterate_succ_apply', countDown_toNat, ih, Nat.sub_sub]

/-- The two timers count down side by side, and nothing else changes. -/
theorem State.timerTick_iterate (n : Nat) (s : State) :
    State.timerTick^[n] s = { s with DT := countDown^[n] s.DT, ST := countDown^[n] s.ST } := by
  induction n generalizing s with
  | zero => rfl
  | succ n ih => exact ih s.timerTick

/-- The mask of key k has bit k and no other (R224). -/
theorem getLsbD_keyBit {k : Nat} (hk : k ≤ 15) (j : Nat) : (1#16 <<< k).getLsbD j = decide (j = k) := by
  rw [← BitVec.twoPow_eq, BitVec.getLsbD_twoPow]
  simp [Nat.lt_succ_of_le hk, eq_comm]

end Sys2Proof.Machine

/-! The statements of the family 60_exceptions.md, settled. -/

namespace Sys2Proof.Machine

/-- Settles O8: every execution step and every delivery answers a next state. -/
theorem runningStepAlwaysAnswersNext : Obligations.RunningStepAlwaysAnswersNext := by
  unfold Obligations.RunningStepAlwaysAnswersNext
  intro s hm
  cases hs : s.schedule with
  | nil =>
    rw [step_of_running hm hs]
    exact executionStep_total s
  | cons a tail =>
    obtain rfl | ha := eq_or_ne a .executionTick
    · rw [step_of_tick hs, executionTick_of_running (s := { s with schedule := tail }) hm]
      exact executionStep_total _
    · rw [step_of_scheduled hs]
      exact deliver_total ha _

/-- Settles O9: an execution step keeps the mode, here `Running`, or changes it alone. -/
theorem haltingStepChangesOnlyTheMode : Obligations.HaltingStepChangesOnlyTheMode := by
  unfold Obligations.HaltingStepChangesOnlyTheMode
  intro s t hturn h hhalted
  have ⟨hm, _⟩ := hturn
  rw [step_of_engineTurn hturn] at h
  rcases executionStep_keeps_mode_or_halts h with hmode | hcause
  · exact absurd (hmode.trans hm) hhalted
  · exact hcause

/-- Settles O10: moving the schedule on changes neither the step's halts nor their causes. -/
theorem causeOfEveryHalt : Obligations.CauseOfEveryHalt := by
  unfold Obligations.CauseOfEveryHalt
  intro s cause hturn
  have ⟨hm, _⟩ := hturn
  rw [step_of_engineTurn hturn]
  exact executionStep_halts_iff (s := { s with schedule := s.schedule.tail }) hm

/-- Settles O29: a tick changes the two timers, which every instruction but FX07, FX15 and FX18 spares. -/
theorem timerTickCommutesWithInstructions : Obligations.TimerTickCommutesWithInstructions := by
  unfold Obligations.TimerTickCommutesWithInstructions
  intro i s t hi h
  simpa only [SideChange.tick_apply] using exec_apply_of_spares (SideChange.tick_spares hi) h

/-- Settles O56, by induction on the number of ticks, for a timer and for the state. -/
theorem timerTicksCountDownToZero : Obligations.TimerTicksCountDownToZero := by
  unfold Obligations.TimerTicksCountDownToZero
  intro n s
  rw [State.timerTick_iterate]
  exact ⟨countDown_iterate_toNat n s.DT, countDown_iterate_toNat n s.ST, rfl⟩

/-- Settles O57: an edge sets or clears bit k of the mask, and doing so twice is doing so once. -/
theorem keyEdgesSetAndClearOneBit : Obligations.KeyEdgesSetAndClearOneBit := by
  unfold Obligations.KeyEdgesSetAndClearOneBit
  refine fun s k => ⟨fun hk => ⟨State.pressKey_of_gt hk, State.releaseKey_of_gt hk⟩, fun hk => ⟨?press, ?release⟩⟩
  case press =>
    refine ⟨_, State.pressKey_of_le hk, fun j _ => ?_, rfl, ?_⟩
    · rw [BitVec.getLsbD_or, getLsbD_keyBit hk, Bool.or_comm]
    · rw [State.pressKey_of_le hk]
      simp only [BitVec.or_assoc, BitVec.or_self]
  case release =>
    refine ⟨_, State.releaseKey_of_le hk, fun j hj => ?_, rfl, ?_⟩
    · simp only [BitVec.getLsbD_and, BitVec.getLsbD_not, getLsbD_keyBit hk, hj, decide_true, Bool.true_and, Bool.and_comm]
    · rw [State.releaseKey_of_le hk]
      simp only [BitVec.and_assoc, BitVec.and_self]

end Sys2Proof.Machine

/-! SUPPORT. What a fresh machine holds (10_state.md R33, R40; 70_reset_and_hazards.md R240), and what a turn does
outside `Running` and at a jump to itself (R242, R251). -/

namespace Sys2Proof.Machine

variable {s : State}

theorem blankByte_of_lt {a : Nat} (h : a < 80) : blankByte a = defaultFont[a] :=
  List.getD_eq_getElem _ _ h

theorem blankByte_of_ge {a : Nat} (h : 80 ≤ a) : blankByte a = 0#8 :=
  List.getD_eq_default _ _ h

/-- Bytes that equal what their addresses read as unwritten leave the blank memory blank. -/
theorem Memory.writeBytes_blank (bs : List Byte) {a : Nat}
    (h : ∀ (k : Nat) (hk : k < bs.length), bs[k] = blankByte (a + k)) : Memory.writeBytes [] a bs = [] := by
  induction bs generalizing a with
  | nil => rfl
  | cons b bs ih =>
    have hb : b = blankByte a := h 0 (Nat.succ_pos _)
    have hbs (k : Nat) (hk : k < bs.length) : bs[k] = blankByte (a + 1 + k) := by
      simpa [Nat.add_assoc, Nat.add_comm 1 k] using h (k + 1) (Nat.succ_lt_succ hk)
    rw [Memory.writeBytes, Memory.write, if_pos hb, ih hbs]

theorem Memory.writeBytes_defaultFont : Memory.writeBytes [] 0 defaultFont.toList = [] := by
  refine Memory.writeBytes_blank _ fun k hk => ?_
  rw [Vector.getElem_toList, Nat.zero_add, blankByte_of_lt]

theorem State.reset_mem_read (a : Nat) : State.reset.mem.read a = blankByte a := rfl

theorem step_of_unloaded (hm : s.mode = .unloaded) (hs : s.schedule = []) : step s = .refused .unloaded := by
  rw [step, turn, hs, freeRun, hm]

theorem step_of_halted {cause : FatalCondition} (hm : s.mode = .halted cause) (hs : s.schedule = []) :
    step s = .fault (.halted cause) := by
  rw [step, turn, hs, freeRun, hm]

theorem step_of_parked (hp : Parked s) (hs : s.schedule = []) : step s = .next s := by
  obtain ⟨hm, nnn, hi, hnnn⟩ := hp
  calc step s = executionStep s := step_of_running hm hs
    _ = execJp nnn s := executionStep_of_ok hi
    _ = .next s := execJp_eq_self_iff.2 hnnn

/-- Nothing that makes an engine parked is read from the timers. -/
theorem Parked.timerTick (hp : Parked s) : Parked s.timerTick := hp

end Sys2Proof.Machine

/-! The statements of the family 70_reset_and_hazards.md, settled. -/

namespace Sys2Proof.Machine

/-- Settles O58: the two answers of a load, and what copying a program that ends within memory does to each byte. -/
theorem loadCopiesTheProgram : Obligations.LoadCopiesTheProgram := by
  unfold Obligations.LoadCopiesTheProgram
  refine fun s bytes => ⟨State.load_of_gt, fun hwf hl => ⟨_, State.load_of_le hl, fun k hk => ?_, fun a ha => ?_, rfl⟩⟩
  · exact Memory.read_writeBytes hwf bytes (programBase_add_le hl) hk
  · exact Memory.read_writeBytes_other s.mem bytes ha

/-- Settles O59: the default font is what a blank memory reads as, so writing it lists nothing; a font is 80 bytes
copied to 0x000, and the other elements are the launch state's by definition. -/
theorem constructionWritesTheFont : Obligations.ConstructionWritesTheFont := by
  unfold Obligations.ConstructionWritesTheFont
  constructor
  · rw [construct, cleanLaunch, Memory.writeBytes_defaultFont, State.reset]
  · intro p font l hwf
    have hlen : font.toList.length = 80 := font.length_toList
    have hfit : 0 + font.toList.length ≤ 4096 := by omega
    refine ⟨fun a ha => ?inFont, fun a ha => ?aboveFont, Memory.wf_writeBytes hwf font.toList hfit,
      rfl, rfl, rfl, rfl, rfl, rfl, rfl, rfl, rfl, rfl⟩
    case inFont =>
      have hread := Memory.read_writeBytes hwf font.toList hfit (k := a) (by omega)
      rwa [Nat.zero_add, Vector.getElem_toList] at hread
    case aboveFont => exact Memory.read_writeBytes_other l.mem font.toList (.inr (by omega))

/-- Settles O60: timer ticks keep the engine parked and the schedule empty, and a parked engine's step is a jump to
itself. -/
theorem parkedEngineStaysParked : Obligations.ParkedEngineStaysParked := by
  unfold Obligations.ParkedEngineStaysParked
  intro s n hp hs
  have hpn : Parked (State.timerTick^[n] s) := Function.Iterate.rec Parked hp (fun _ h => h.timerTick) n
  have hsn : (State.timerTick^[n] s).schedule = [] := by rw [State.timerTick_iterate, hs]
  exact ⟨step_of_parked hpn hsn, hpn⟩

/-- Settles O11, turn by turn: a tick outside `Running` does nothing, and a free run ends as its mode says. -/
theorem noStepOutsideRunning : Obligations.NoStepOutsideRunning := by
  unfold Obligations.NoStepOutsideRunning
  refine fun s hm => ⟨fun tail hs => ?_, fun hs hu => step_of_unloaded hu hs, fun _ hs hh => step_of_halted hh hs⟩
  calc step s = executionTick { s with schedule := tail } := step_of_tick hs
    _ = .next { s with schedule := tail } := executionTick_of_not_running hm

/-- Settles O13: reset lists no byte of memory, so each byte is the font's or 0, and every other element is 0. -/
theorem resetMeetsTheInvariants : Obligations.ResetMeetsTheInvariants := by
  unfold Obligations.ResetMeetsTheInvariants
  have hstack : StackFetchable State.reset := ⟨fun j hj => absurd hj j.val.not_lt_zero, by decide⟩
  have hfont (a : Nat) (ha : a < 80) : State.reset.mem.read a = defaultFont[a] := by
    rw [State.reset_mem_read, blankByte_of_lt]
  have hzero (a : Nat) (ha : 80 ≤ a) : State.reset.mem.read a = 0#8 := by
    rw [State.reset_mem_read, blankByte_of_ge ha]
  have hclean : CleanEntry 0 State.reset :=
    ⟨fun r => Vector.getElem_replicate r.isLt, rfl, fun j => Vector.getElem_replicate j.isLt, rfl, rfl, rfl, rfl,
      fun r => Vector.getElem_replicate r.isLt, fun a ha _ => hzero a ha, fun a ha _ => hzero a (by omega)⟩
  exact ⟨rfl, hstack, rfl, hfont, hclean⟩

end Sys2Proof.Machine
